-- ==== Sys2Proof/Word.lean ====
section
/-! DEFINITION. The word types of PAB (spec 00 R9, R10) and the two plain data types every later file speaks of:
a colour lane and a colour. -/

namespace Sys2Proof

/-- A host data word, 32 bits (R9). -/
abbrev Word := BitVec 32

/-- A colour component or a chip register, 8 bits (R9). -/
abbrev Byte := BitVec 8

/-- One of the three colour lanes (glossary "Lane"). -/
inductive Lane where
  | r
  | g
  | b
deriving DecidableEq, Repr

/-- A colour: a triple of 8-bit components (R10). -/
structure Color where
  r : Byte
  g : Byte
  b : Byte
deriving DecidableEq, Repr

end Sys2Proof
end

