-- ==== Sys2Proof/Machine/ColorModel.lean ====
section
/-! DEFINITION. The duty-cycle converter (spec 40): `toDuty`, total on the integers, and its lane-by-lane form. -/

namespace Sys2Proof.Machine

/-- `clamp(v, lo, hi)` of R10. -/
def clampInt (v lo hi : Int) : Int := min (max v lo) hi

/-- The exact integer form of R100 and R101 on a component already in 0..255. -/
def dutyNat (c : Nat) : Nat := (4095 * (255 - c) + 127) / 255

/-- `toDuty` of R100 on any integer component: the input clamp, the exact quotient, the output clamp. -/
def toDutyInt (c : Int) : BitVec 12 :=
  BitVec.ofNat 12 (min (dutyNat (clampInt c 0 255).toNat) 4095)

/-- `toDuty` on an 8-bit component, the only form PAB uses (R105). -/
def toDuty (v : Byte) : BitVec 12 := toDutyInt v.toNat

/-- `toDutyTriple` of R103: the three lanes independently, in the order red, green, blue. -/
def toDutyTriple (c : Color) : BitVec 12 × BitVec 12 × BitVec 12 :=
  (toDuty c.r, toDuty c.g, toDuty c.b)

/-- The component whose duty is `off`, if there is one. PAB has no such function (R106): it only says which OUT
triples PAB can issue, for well-formedness and for placing a CHWRITE where it is fetched. -/
def componentWithDuty (off : BitVec 12) : Option Byte :=
  ((List.range 256).find? fun c => toDuty (BitVec.ofNat 8 c) == off).map (BitVec.ofNat 8)

/-- Is `off` the duty of some component, as the off count of every CHWRITE is (R171)? -/
def isDuty (off : BitVec 12) : Bool := (componentWithDuty off).isSome

/-- Black, `(0, 0, 0)` (R145). -/
def black : Color := ⟨0, 0, 0⟩

/-- White, `(255, 255, 255)` (R145). -/
def white : Color := ⟨255, 255, 255⟩

end Sys2Proof.Machine
end

