-- ==== Sys2Proof/Syntax.lean ====
section
/-! DEFINITION. The operations of PAB: one constructor per row of spec/opcode_table.json (spec 30 R83, R84, R86; 40 R103). -/

namespace Sys2Proof

/-- The seventeen rows of the opcode table. -/
inductive Instr where
  /-- `NOP` (R111). -/
  | nop
  /-- `CONFIGURE` (R112). -/
  | configure
  /-- `START` (R121). -/
  | start
  /-- `CANCEL` (R122). -/
  | cancel
  /-- `CLRERR` (R123). -/
  | clrerr
  /-- `M_SEQ_SOFT_RANDOM`, mode code 0 (R137). -/
  | mSeqSoftRandom
  /-- `M_SEQ_RANDOM`, mode code 1 (R138). -/
  | mSeqRandom
  /-- `M_SEQ_SOFT`, mode code 2 (R139). -/
  | mSeqSoft
  /-- `M_SEQUENCE`, mode code 3 (R140). -/
  | mSequence
  /-- `M_RANDOM_SOFT`, mode code 4 (R141). -/
  | mRandomSoft
  /-- `M_RANDOM`, mode code 5 (R142). -/
  | mRandom
  /-- `M_CHAOS`, mode code 6 (R143). -/
  | mChaos
  /-- `M_REGULAR`, mode code 7 (R144). -/
  | mRegular
  /-- `CHWRITE`: the transaction `ChWrite(ch, 0, off)` of the output port (R86, R171). -/
  | chwrite (ch : BitVec 4) (off : BitVec 12)
  /-- `TODUTY.R`: a host read of `CONV_R` (R103). -/
  | todutyR
  /-- `TODUTY.G`: a host read of `CONV_G` (R103). -/
  | todutyG
  /-- `TODUTY.B`: a host read of `CONV_B` (R103). -/
  | todutyB
deriving DecidableEq, Repr

end Sys2Proof
end

