-- ==== Sys2Proof/WellFormed.lean ====
section
/-! DEFINITION. Well-formed operations. Sixteen rows have no operand; a CHWRITE is well formed when its off count is a
duty, since PAB drives `wr_off = toDuty(v)` and nothing else (spec 44 R171). -/

namespace Sys2Proof

/-- The check of an operation's operands. -/
def Instr.wellFormed : Instr → Bool
  | .chwrite _ off => Machine.isDuty off
  | .nop | .configure | .start | .cancel | .clrerr
  | .mSeqSoftRandom | .mSeqRandom | .mSeqSoft | .mSequence
  | .mRandomSoft | .mRandom | .mChaos | .mRegular
  | .todutyR | .todutyG | .todutyB => true

end Sys2Proof
end

