-- ==== Sys2Proof/Decode.lean ====
section
/-! DEFINITION. Decoding and encoding of the table's four formats (spec 30 R80, R82 to R84, R86, R88; 40 R103). A word is
read in the format of the place it stands in: a `CMD` write, the `STATUS.MODE` field, the output port, or the address
of a host read. Every word either gives an operation or is rejected by name. -/

namespace Sys2Proof

/-- The formats of the opcode table (R80). -/
inductive Format where
  /-- A 32-bit word written to `CMD`. -/
  | cmd
  /-- The 3-bit field `STATUS.MODE`. -/
  | mode
  /-- The output port's buses side by side: ch [27:24], on [23:12], off [11:0]. -/
  | out
  /-- The 12-bit address of a host read. -/
  | duty
deriving DecidableEq, Repr

/-- Why a word is no operation. -/
inductive DecodeError where
  /-- A CMD word with a nonzero bit in [31:4] (R88). -/
  | reservedBits
  /-- A CMD word with OP in 0x5..0xF (R83, R88). -/
  | reservedOpcode
  /-- An OUT triple whose on count is not 0: PAB issues none (R86). -/
  | onNotZero
  /-- An OUT triple whose off count is no duty: PAB issues none (R171). -/
  | offNotDuty
  /-- A host read address that is none of CONV_R, CONV_G and CONV_B. -/
  | notConverter
deriving DecidableEq, Repr

/-- A CMD word (R82, R83, R88). -/
def decodeCmd (w : Word) : Except DecodeError Instr :=
  if w.extractLsb' 4 28 ≠ 0 then .error .reservedBits
  else match (w.extractLsb' 0 4).toNat with
    | 0 => .ok .nop
    | 1 => .ok .configure
    | 2 => .ok .start
    | 3 => .ok .cancel
    | 4 => .ok .clrerr
    | _ => .error .reservedOpcode

/-- A mode code: all eight are used (R84). -/
def decodeMode (m : BitVec 3) : Instr :=
  match m.toNat with
  | 0 => .mSeqSoftRandom
  | 1 => .mSeqRandom
  | 2 => .mSeqSoft
  | 3 => .mSequence
  | 4 => .mRandomSoft
  | 5 => .mRandom
  | 6 => .mChaos
  | _ => .mRegular

/-- An OUT triple (R86, R171). -/
def decodeOut (ch : BitVec 4) (on off : BitVec 12) : Except DecodeError Instr :=
  if on ≠ 0 then .error .onNotZero
  else if Machine.isDuty off then .ok (.chwrite ch off)
  else .error .offNotDuty

/-- The address of a host read: CONV_R, CONV_G, CONV_B (R103). -/
def decodeDuty (a : BitVec 12) : Except DecodeError Instr :=
  match a.toNat with
  | 0x03C => .ok .todutyR
  | 0x040 => .ok .todutyG
  | 0x044 => .ok .todutyB
  | _ => .error .notConverter

/-- The decoder: a word read in a format. Bits that the format gives no field are no part of the word (log 9). -/
def decode (f : Format) (w : Word) : Except DecodeError Instr :=
  match f with
  | .cmd => decodeCmd w
  | .mode => .ok (decodeMode (w.extractLsb' 0 3))
  | .out => decodeOut (w.extractLsb' 24 4) (w.extractLsb' 12 12) (w.extractLsb' 0 12)
  | .duty => decodeDuty (w.extractLsb' 0 12)

/-- The encoder, from the same tables. -/
def encode : Instr → Format × Word
  | .nop => (.cmd, 0x00000000)
  | .configure => (.cmd, 0x00000001)
  | .start => (.cmd, 0x00000002)
  | .cancel => (.cmd, 0x00000003)
  | .clrerr => (.cmd, 0x00000004)
  | .mSeqSoftRandom => (.mode, 0)
  | .mSeqRandom => (.mode, 1)
  | .mSeqSoft => (.mode, 2)
  | .mSequence => (.mode, 3)
  | .mRandomSoft => (.mode, 4)
  | .mRandom => (.mode, 5)
  | .mChaos => (.mode, 6)
  | .mRegular => (.mode, 7)
  | .chwrite ch off => (.out, (0#4 ++ ch ++ 0#12 ++ off : BitVec 32))
  | .todutyR => (.duty, 0x03C)
  | .todutyG => (.duty, 0x040)
  | .todutyB => (.duty, 0x044)

/-- The mode code of a frame operation (R84), 0 for the rest. -/
def modeCode (i : Instr) : BitVec 3 :=
  match encode i with
  | (.mode, w) => w.extractLsb' 0 3
  | _ => 0

/-- The bits that make up a word of a format. -/
def Format.mask : Format → Word
  | .cmd => 0xFFFFFFFF
  | .mode => 0x00000007
  | .out => 0x0FFFFFFF
  | .duty => 0x00000FFF

/-- The format of a table row of `nbits` bits in whole bytes: 8 for STATUS.MODE, 16 for DUTY, 24 for OUT (its highest
given bit is 23), 32 for CMD (log 9). -/
def formatOfBits (nbits : Nat) : Option Format :=
  if nbits ≤ 8 then some .mode
  else if nbits ≤ 16 then some .duty
  else if nbits ≤ 24 then some .out
  else if nbits ≤ 32 then some .cmd
  else none

/-- What the decoder reads from an instruction whose bits are `w`, numbered as the opcode table numbers them. -/
def decodeTableWord (nbits w : Nat) : Option Instr :=
  match formatOfBits nbits with
  | none => none
  | some f =>
    match decode f (BitVec.ofNat 32 w) with
    | .ok i => some i
    | .error _ => none

end Sys2Proof
end

