-- ==== Sys2Proof/Config.lean ====
section
/-! DEFINITION. What an implementation fixes (spec 00 R8) and the free values of the model. The decided parameters are
definitions; every OPEN parameter and every free value is an opaque constant, so that no proof can see its value. -/

namespace Sys2Proof.Config

/-- `P_SEQ_DEPTH`, decided 64 (R8, D11; log 6). -/
def pSeqDepth : Nat := 64

/-- `P_INT_DEPTH`, decided 64 (R8, D12; log 6). -/
def pIntDepth : Nat := 64

/-- `P_TICKS_PER_SEC`, decided 1000 (R8, D18; log 6). -/
def pTicksPerSec : Nat := 1000

/-- `P_FLASH`, OPEN: the length in ticks of the white flash, any 32-bit value (R8, R142, U5; log 5). -/
opaque pFlash : Word

/-- What byte address `a` of the two sequence memories holds after the `k`-th reset until it is written
(R44, R234, U1; log 3). A free value: arbitrary, fixed at the reset, and the same for every reader. -/
opaque ramByte (k : Nat) (a : Nat) : Byte

/-! ### Parameters of the DRIVER and the chip (environment only, R8, R184, U6; log 14) -/

/-- `P_CHIP_ADDR`: the 7-bit bus address of the chip, from the source's default (R8, R71). -/
def pChipAddr : BitVec 7 := 0x40

/-- `P_OSC_HZ`: the oscillator frequency of the prescale formula (R8, R179). -/
def pOscHz : Nat := 25000000

/-- `P_BASE_REG`, OPEN: the offset of channel 0's on-low register. -/
opaque pBaseReg : Byte

/-- `P_ALL_BASE_REG`, OPEN: the offset of the "all channels" on-low register. -/
opaque pAllBaseReg : Byte

/-- `P_SETTLE`, OPEN: the driver's settle delay. -/
opaque pSettle : Nat

/-- The driver's default frequency, OPEN (D56). -/
opaque defaultFrequency : Nat

/-- The offset of the chip's MODE1 register (not in the source, R184). -/
opaque mode1Reg : Byte

/-- The offset of the chip's MODE2 register (not in the source, R184). -/
opaque mode2Reg : Byte

/-- The offset of the chip's PRE_SCALE register (not in the source, R184). -/
opaque preScaleReg : Byte

/-- The internal-call-address mode bit of MODE1, as a mask (not in the source, R184). -/
opaque mode1AllCall : Byte

/-- The sleep bit of MODE1, as a mask (not in the source, R184). -/
opaque mode1Sleep : Byte

/-- The restart bit of MODE1, as a mask (not in the source, R184). -/
opaque mode1Restart : Byte

/-- The output-driver mode bit of MODE2, as a mask (not in the source, R184). -/
opaque mode2OutDrv : Byte

/-- What chip channel register `k` (counted from `P_BASE_REG`) holds at power-on (`sleeps = 0`) or after the chip's
`sleeps`-th sleep, until it is written (U18; log 13). A free value: fixed until the next sleep. -/
opaque chipByte (sleeps : Nat) (k : Nat) : Byte

/-- What register `k` of a channel holds after its request has failed (R217, U9; log 13), where `losses` counts the failed
and abandoned requests before. A free value. -/
opaque lostByte (losses : Nat) (k : BitVec 2) : Byte

/-- How many of its four register writes the DRIVER has done of a request that a reset abandons (U10; log 13): none, some
or all. A free value. -/
opaque abandonedWrites (losses : Nat) : Fin 5

/-- The last-programmed (on, off) pair of a channel whose request failed, or was abandoned half done (R177, U9, U10;
log 13). A free value. -/
opaque chipPair (losses : Nat) : BitVec 12 × BitVec 12

/-- What register `k` of the chip's "all channels" block reads as: the spec gives that block writes alone (R181; log 13).
A free value. -/
opaque allLedByte (sleeps : Nat) (k : BitVec 2) : Byte

end Sys2Proof.Config
end

