-- ==== Sys2Proof/Machine/State.lean ====
section
/-! DEFINITION. The state of PAB as plain data (spec 10, 70 R231): configuration registers, status, engine, ports, the two
memories, the DRIVER's side of the output port, and the tape of the coming steps; the faults and refusals; reset. -/

namespace Sys2Proof.Machine

/-- `STATUS.STATE` (R22). Value 7 is never produced (R85), so no constructor stands for it (log 11). -/
inductive RunState where
  | unconfigured
  | ready
  | running
  | done
  | cancelled
  | busError
  | configError
deriving DecidableEq, Repr

/-- `STATUS.CFG_ERR` (R24, R201). Values 7 to 15 are never produced (R85; log 11). -/
inductive CfgErr where
  | none
  | noMode
  | emptySequence
  | seqMalformed
  | channelConflict
  | chaosSoft
  | intMalformed
deriving DecidableEq, Repr

/-- Where the ENGINE is in a frame (R45); `finish` is the spec's `END`. -/
inductive Phase where
  | idle
  | begin
  | draw
  | issue
  | waitWr
  | waitTick
  | finish
deriving DecidableEq, Repr

/-- An action of a frame (R12): a write action or a wait action. -/
inductive Action where
  /-- `Wr(X, v)`. -/
  | wr (x : Lane) (v : Byte)
  /-- `Wt(t)`. -/
  | wt (t : Word)
deriving DecidableEq, Repr

/-- One entry of the trace of a run (R12; log 12). -/
inductive TraceItem where
  /-- `ChWrite(ch, on, off)` with the driver's answer. -/
  | write (ch : BitVec 4) (on off : BitVec 12) (ok : Bool)
  /-- A completed wait action `Wt(t)`. -/
  | wait (t : Word)
deriving DecidableEq, Repr

/-- The width of a host access. Only `word` exists on the port (R60, R69). -/
inductive AccessSize where
  | byte
  | half
  | word
deriving DecidableEq, Repr

/-- The host port's inputs in one step (R6, R60). -/
structure HostAccess where
  wr : Bool
  rd : Bool
  addr : BitVec 12
  wdata : Word
  size : AccessSize
deriving DecidableEq, Repr

/-- One step of one agent with its input (R7; log 1). -/
inductive Event where
  /-- `rst = 1` in this step (R230). -/
  | reset
  /-- A HOST access (R60). -/
  | host (a : HostAccess)
  /-- The DRIVER presents `wr_done = 1` with this `wr_fail` (R172). -/
  | driver (fail : Bool)
  /-- A TIMEBASE pulse (R174). -/
  | tick
  /-- RANDOM presents `rnd_ack = 1` with this `rnd_data` (R175; log 19). -/
  | random (w : Word)
  /-- The ENGINE's own step (R147). -/
  | engine
  /-- The DRIVER performs `setup()` (R178; log 15). -/
  | driverSetup
  /-- The DRIVER performs `setFrequency(hz)` as one atomic step (R179, R180; log 15). -/
  | driverSetFrequency (hz : Nat)
deriving DecidableEq, Repr

/-- The inputs an implementation samples at one clock edge (R206). How many edges one step takes is open (R7, R250), so
whether the ENGINE's own step falls in an edge is an input too (DESIGN CHOICE, log 1). -/
structure Edge where
  rst : Bool
  host : Option HostAccess
  wrDone : Option Bool
  tick : Bool
  rndData : Option Word
  engine : Bool
deriving DecidableEq, Repr

/-- The host-visible registers and window entries (R20, R44). -/
inductive Reg where
  | cmd
  | status
  | flags
  | channels
  | rgb
  | startColor
  | interval
  | frameCount
  | seqLen
  | intLen
  | frameRemain
  | seqIndex
  | intIndex
  | curColor
  | convIn
  | convR
  | convG
  | convB
  | caps
  | seqRam (n : BitVec 6)
  | intRam (n : BitVec 6)
deriving DecidableEq, Repr

/-- The access classes of spec 10. -/
inductive Access where
  | ro
  | wo
  | cfg
  | rw
deriving DecidableEq, Repr

/-- The four error events of R200. -/
inductive ErrorEvent where
  /-- `ConfigurationError(code)` (R201). -/
  | configuration (code : CfgErr)
  /-- `BusError` (R202). -/
  | bus
  /-- `CommandError` (R204). -/
  | command
  /-- The ignored write (R205). -/
  | ignoredWrite
deriving DecidableEq, Repr

/-- The configuration registers outside the two memories (R30 to R37). -/
structure CfgRegs where
  flags : BitVec 8
  channels : BitVec 12
  rgb : Color
  startColor : Color
  interval : Word
  frameCount : BitVec 16
  seqLen : BitVec 7
  intLen : BitVec 7
deriving DecidableEq, Repr

/-- The stored part of `STATUS` (R22 to R26); the other bits mirror engine and port state (R27 to R29; log 16). -/
structure Status where
  state : RunState
  mode : BitVec 3
  modeValid : Bool
  cfgErr : CfgErr
  cmdErr : Bool
  wrIgnored : Bool
deriving DecidableEq, Repr

/-- `WRB`, the outstanding write (R45). -/
structure WriteBuffer where
  lane : Lane
  value : Byte
  ch : BitVec 4
  off : BitVec 12
deriving DecidableEq, Repr

/-- The ENGINE's internal state (R45): `pc` is the pair (`phase`, `p`). -/
structure Engine where
  phase : Phase
  /-- `ACT` -/
  act : List Action
  p : Nat
  /-- `DL` -/
  dl : List Nat
  /-- `DV` -/
  dv : Vector Word 6
  q : Nat
  /-- `S` -/
  src : Color
  /-- `T` -/
  tgt : Color
  /-- `FIRST` -/
  first : Bool
  /-- `DLY` -/
  dly : Word
  /-- `STATUS.DLY_ACTIVE` (R29) -/
  dlyActive : Bool
  /-- `WRB` -/
  wrb : WriteBuffer
  /-- `STOP` -/
  stop : Bool
  /-- `FC` -/
  fc : BitVec 16
  /-- `I_SEQ` -/
  iSeq : BitVec 6
  /-- `I_INT` -/
  iInt : BitVec 6
deriving DecidableEq, Repr

/-- PAB's output ports (R6). `hRdata` is what `h_rdata` showed in the last step with the read strobe set (log 7). -/
structure Ports where
  wrReq : Bool
  wrCh : BitVec 4
  wrOn : BitVec 12
  wrOff : BitVec 12
  rndReq : Bool
  hRdata : Word
deriving DecidableEq, Repr

/-- The DRIVER's state and the chip behind it (R177 to R184; environment, log 13). `leds` lists the channel registers set
since power-on or the chip's last sleep, numbered from `P_BASE_REG`; an unlisted one holds a free value. -/
structure Driver where
  ready : Bool
  frequency : Nat
  mode1 : Byte
  mode2 : Byte
  preScale : Byte
  /-- DriverState's last-programmed (on, off) pair of each channel (R177). -/
  pairs : Vector (BitVec 12 × BitVec 12) 16
  leds : List Host.Cell
  /-- How many times the chip has slept: picks the free values of the unlisted registers. -/
  sleeps : Nat
  /-- How many requests have failed or been abandoned: picks the free values they leave. -/
  losses : Nat
deriving DecidableEq, Repr

/-- The machine state. -/
structure State where
  cfg : CfgRegs
  status : Status
  eng : Engine
  port : Ports
  /-- `CUR_COLOR` (R41) -/
  curColor : Color
  /-- `CONV_IN` (R42) -/
  convIn : Color
  /-- The written bytes of `SEQ_RAM` and `INT_RAM`, by host byte address, strictly rising (R44; logs 3 and 4). -/
  mem : List Host.Cell
  /-- How many resets there have been: picks the free contents of the memories (log 3). -/
  resets : Nat
  /-- The coming steps of the agents (R7; log 1). -/
  tape : List Event
  /-- The trace of the current run, or of the last one (R12; log 12). -/
  trace : List TraceItem
  drv : Driver
deriving DecidableEq, Repr

/-- What stops the machine. Both are safe: the spec leaves the operation without a value there, and no run from reset
comes to either (log 10). -/
inductive Fault where
  /-- A draw or an index is reduced modulo 0: raised by `drawAnswer`, `M_SEQ_SOFT` and `M_SEQUENCE` when `SEQ_LEN` is 0. Safe. -/
  | zeroModulus
  /-- A sequence entry at or beyond `P_SEQ_DEPTH` is read: raised by the four sequence modes. Safe. -/
  | entryBeyondDepth (n : Nat)
deriving DecidableEq, Repr

/-- What the model gives no move for: an arm of `exec` without a meaning, and the duties of the environment that the spec
says a model excludes. -/
inductive Refusal where
  /-- An instruction with no meaning yet: raised by `exec` alone. Safe. -/
  | notModelled (mnemonic : String)
  /-- A byte or half-word host access (R69, U14): raised by the host step. Safe. -/
  | narrowAccess
  /-- A `START` that PAB would accept, before the DRIVER's `setup()` has completed (R14, R182, U8): raised by the host
  step. Safe. -/
  | startBeforeSetup
  /-- `setup()` while a run goes on (R181: its `writeAll` "is never used during a run"): raised by the DRIVER's step. Safe. -/
  | setupDuringRun
  /-- A channel write answered (R177, R182), or `setFrequency` called (R178), before `setup()` has completed: raised by
  the DRIVER's step. Safe. -/
  | driverNotReady
  /-- `setFrequency` with a prescale that does not fit in 8 bits, or `hz = 0` (U15): raised by the DRIVER's step. Safe. -/
  | prescaleRange
deriving DecidableEq, Repr

/-- The engine after reset (R231). The spec gives WRB the value 0 and the lanes no number: lane R stands in it
(DESIGN CHOICE, log 20). -/
def Engine.reset : Engine where
  phase := .idle
  act := []
  p := 0
  dl := []
  dv := Vector.replicate 6 0
  q := 0
  src := ⟨0, 0, 0⟩
  tgt := ⟨0, 0, 0⟩
  first := false
  dly := 0
  dlyActive := false
  wrb := ⟨.r, 0, 0, 0⟩
  stop := false
  fc := 0
  iSeq := 0
  iInt := 0

/-- The machine right after reset (R231). The two memories list nothing: their contents are free (R234). The DRIVER
fields, `hRdata` and the model's own fields are at the values of logs 1, 3, 7, 12 and 13. -/
def State.reset : State where
  cfg := ⟨0x00, 0x210, ⟨0, 0, 0⟩, ⟨0, 0, 0⟩, 0, 0, 0, 0⟩
  status := ⟨.unconfigured, 0, false, .none, false, false⟩
  eng := Engine.reset
  port := ⟨false, 0, 0, 0, false, 0⟩
  curColor := ⟨0, 0, 0⟩
  convIn := ⟨0, 0, 0⟩
  mem := []
  resets := 0
  tape := []
  trace := []
  drv := ⟨false, 0, 0, 0, 0, Vector.replicate 16 (0, 0), [], 0, 0⟩

/-- The outcome of a meaning. -/
abbrev Result := Host.Outcome State Fault Refusal

end Sys2Proof.Machine
end

