-- ==== Sys2Proof/Machine/Operands.lean ====
section
/-! DEFINITION. Operand forms (spec 30 R80, R81, R87): colour words, channel fields, FLAGS bits, the little helpers of the
register map (spec 10 R20, 20 R61 to R64), and the byte layout of the two memories (log 4). -/

namespace Sys2Proof.Machine

/-! ### Colour words (R81) -/

/-- The COLOR word `{8'b0, b, g, r}`. -/
def colorWord (c : Color) : Word := 0#8 ++ c.b ++ c.g ++ c.r

/-- The colour of a word; bits [31:24] are ignored. -/
def wordColor (w : Word) : Color := ⟨w.extractLsb' 0 8, w.extractLsb' 8 8, w.extractLsb' 16 8⟩

/-- One lane of a colour. -/
def laneOf (x : Lane) (c : Color) : Byte :=
  match x with
  | .r => c.r
  | .g => c.g
  | .b => c.b

/-- A colour with one lane replaced. -/
def setLane (x : Lane) (v : Byte) (c : Color) : Color :=
  match x with
  | .r => { c with r := v }
  | .g => { c with g := v }
  | .b => { c with b := v }

/-! ### CHANNELS (R31) -/

/-- `CH_R`, `CH_G` or `CH_B` of a CHANNELS value. -/
def channelOf (x : Lane) (channels : BitVec 12) : BitVec 4 :=
  match x with
  | .r => channels.extractLsb' 0 4
  | .g => channels.extractLsb' 4 4
  | .b => channels.extractLsb' 8 4

/-- Are the three channels pairwise distinct (R113)? -/
def channelsDistinct (channels : BitVec 12) : Bool :=
  channelOf .r channels != channelOf .g channels && channelOf .r channels != channelOf .b channels
    && channelOf .g channels != channelOf .b channels

/-! ### FLAGS (R30) -/

/-- `FLAGS.SOFT` -/
def flagSoft (f : BitVec 8) : Bool := f.getLsbD 0
/-- `FLAGS.RANDOM_SEQUENCE` -/
def flagRandomSequence (f : BitVec 8) : Bool := f.getLsbD 1
/-- `FLAGS.RANDOM_FLAG` -/
def flagRandom (f : BitVec 8) : Bool := f.getLsbD 2
/-- `FLAGS.CHAOS` -/
def flagChaos (f : BitVec 8) : Bool := f.getLsbD 3
/-- `FLAGS.SEQ_PRESENT` -/
def flagSeqPresent (f : BitVec 8) : Bool := f.getLsbD 4
/-- `FLAGS.RGB_PRESENT` -/
def flagRgbPresent (f : BitVec 8) : Bool := f.getLsbD 5
/-- `FLAGS.START_PRESENT` -/
def flagStartPresent (f : BitVec 8) : Bool := f.getLsbD 6
/-- `FLAGS.INT_PRESENT` -/
def flagIntPresent (f : BitVec 8) : Bool := f.getLsbD 7

/-! ### The register map (R20, R61) -/

/-- The register or window entry an address names; `none` for a misaligned address (R65) and a reserved offset (R62). -/
def regAt (a : BitVec 12) : Option Reg :=
  if a.extractLsb' 0 2 ≠ 0 then none
  else if a.extractLsb' 8 4 = 1 then some (.seqRam (a.extractLsb' 2 6))
  else if a.extractLsb' 8 4 = 2 then some (.intRam (a.extractLsb' 2 6))
  else match a.toNat with
    | 0x000 => some .cmd
    | 0x004 => some .status
    | 0x008 => some .flags
    | 0x00C => some .channels
    | 0x010 => some .rgb
    | 0x014 => some .startColor
    | 0x018 => some .interval
    | 0x01C => some .frameCount
    | 0x020 => some .seqLen
    | 0x024 => some .intLen
    | 0x028 => some .frameRemain
    | 0x02C => some .seqIndex
    | 0x030 => some .intIndex
    | 0x034 => some .curColor
    | 0x038 => some .convIn
    | 0x03C => some .convR
    | 0x040 => some .convG
    | 0x044 => some .convB
    | 0x048 => some .caps
    | _ => none

/-- The offset of a register or window entry (R20). -/
def regOffset : Reg → BitVec 12
  | .cmd => 0x000
  | .status => 0x004
  | .flags => 0x008
  | .channels => 0x00C
  | .rgb => 0x010
  | .startColor => 0x014
  | .interval => 0x018
  | .frameCount => 0x01C
  | .seqLen => 0x020
  | .intLen => 0x024
  | .frameRemain => 0x028
  | .seqIndex => 0x02C
  | .intIndex => 0x030
  | .curColor => 0x034
  | .convIn => 0x038
  | .convR => 0x03C
  | .convG => 0x040
  | .convB => 0x044
  | .caps => 0x048
  | .seqRam n => 1#4 ++ n ++ 0#2
  | .intRam n => 2#4 ++ n ++ 0#2

/-- The access class of a register (R20). -/
def regAccess : Reg → Access
  | .cmd => .wo
  | .status | .frameRemain | .seqIndex | .intIndex | .curColor | .convR | .convG | .convB | .caps => .ro
  | .flags | .channels | .rgb | .startColor | .interval | .frameCount | .seqLen | .intLen
  | .seqRam _ | .intRam _ => .cfg
  | .convIn => .rw

/-- `WMASK` of R64; 0 for the registers a host write does not change. -/
def writeMask : Reg → Word
  | .flags => 0x000000FF
  | .channels => 0x00000FFF
  | .rgb | .startColor | .seqRam _ | .convIn => 0x00FFFFFF
  | .interval | .intRam _ => 0xFFFFFFFF
  | .frameCount => 0x0000FFFF
  | .seqLen | .intLen => 0x0000007F
  | .cmd | .status | .frameRemain | .seqIndex | .intIndex | .curColor | .convR | .convG | .convB | .caps => 0

/-! ### The byte layout of the two memories (log 4) -/

/-- The byte address of `SEQ_RAM[n]` (R44). -/
def seqAddr (n : BitVec 6) : Nat := 0x100 + 4 * n.toNat

/-- The byte address of `INT_RAM[n]` (R44). -/
def intAddr (n : BitVec 6) : Nat := 0x200 + 4 * n.toNat

/-- Byte `k` of a word, byte 0 the least significant. -/
def byteOf (w : Word) (k : Nat) : Byte := w.extractLsb' (8 * k) 8

end Sys2Proof.Machine
end

