-- ==== Sys2Proof/Machine/Flags.lean ====
section
/-! DEFINITION. The flags of PAB: the bits of `STATUS` (spec 10 R22 to R29) and mode resolution (spec 41 R112 to R119),
which computes `STATE`, `MODE`, `MODE_VALID` and `CFG_ERR`. -/

namespace Sys2Proof.Machine

/-- The value of `STATUS.STATE` (R22). -/
def stateCode : RunState → BitVec 3
  | .unconfigured => 0
  | .ready => 1
  | .running => 2
  | .done => 3
  | .cancelled => 4
  | .busError => 5
  | .configError => 6

/-- The value of `STATUS.CFG_ERR` (R24, R201). -/
def cfgErrCode : CfgErr → BitVec 4
  | .none => 0
  | .noMode => 1
  | .emptySequence => 2
  | .seqMalformed => 3
  | .channelConflict => 4
  | .chaosSoft => 5
  | .intMalformed => 6

/-- The `STATUS` word (R22 to R29): bit 3 and bits [31:17] read 0, STOP_PENDING mirrors `STOP`, WR_PENDING `wr_req`. -/
def statusWord (s : State) : Word :=
  0#15 ++ BitVec.ofBool s.eng.dlyActive ++ BitVec.ofBool s.port.wrReq ++ BitVec.ofBool s.eng.stop
    ++ BitVec.ofBool s.status.wrIgnored ++ BitVec.ofBool s.status.cmdErr ++ cfgErrCode s.status.cfgErr
    ++ BitVec.ofBool s.status.modeValid ++ s.status.mode ++ 0#1 ++ stateCode s.status.state

/-- The states in which `MODE_VALID` is 1 (R23). -/
def stateHasMode : RunState → Bool
  | .ready | .running | .done | .cancelled | .busError => true
  | .unconfigured | .configError => false

/-- The states in which `START` is permitted (R83, R110). -/
def startPermitted : RunState → Bool
  | .ready | .done | .cancelled | .busError => true
  | .unconfigured | .running | .configError => false

/-- The cascade of R117 to R119, reached when the structural checks pass: the cause and the mode code. -/
def resolveCascade (f : BitVec 8) : CfgErr × BitVec 3 :=
  if flagSeqPresent f then
    if flagRandomSequence f && flagSoft f then (.none, modeCode .mSeqSoftRandom)
    else if flagRandomSequence f then (.none, modeCode .mSeqRandom)
    else if flagSoft f then (.none, modeCode .mSeqSoft)
    else (.none, modeCode .mSequence)
  else if flagRandom f then
    if flagSoft f then (.none, modeCode .mRandomSoft) else (.none, modeCode .mRandom)
  else if flagChaos f then
    if flagSoft f then (.chaosSoft, 0) else (.none, modeCode .mChaos)
  else if flagRgbPresent f then (.none, modeCode .mRegular)
  else (.noMode, 0)

/-- `Resolve()` of R112: the checks in the spec's order, the first failure wins. -/
def resolve (c : CfgRegs) : CfgErr × BitVec 3 :=
  if !channelsDistinct c.channels then (.channelConflict, 0)
  else if flagSeqPresent c.flags && c.seqLen == 0 then (.emptySequence, 0)
  else if flagSeqPresent c.flags && decide (Config.pSeqDepth < c.seqLen.toNat) then (.seqMalformed, 0)
  else if flagIntPresent c.flags && decide (Config.pIntDepth < c.intLen.toNat) then (.intMalformed, 0)
  else resolveCascade c.flags

end Sys2Proof.Machine
end

