-- ==== Sys2Proof/Machine/Ops.lean ====
section
/-! DEFINITION. The named operations on the state: the two memories, the host's register reads and writes (spec 20), the
error events (spec 60), the run's end and the ENGINE's shared steps (spec 42 R131 to R136), and reset (spec 70 R230). -/

namespace Sys2Proof.Machine

/-! ### Memory: a canonical list of written bytes -/

/-- The byte an address lists, if it lists one. -/
def cellLookup : List Host.Cell → Nat → Option Byte
  | [], _ => none
  | (b, v) :: m, a => if a = b then some v else cellLookup m a

/-- List `v` at address `a`, keeping the addresses strictly rising. -/
def cellSet : List Host.Cell → Nat → Byte → List Host.Cell
  | [], a, v => [(a, v)]
  | (b, w) :: m, a, v =>
    if a < b then (a, v) :: (b, w) :: m
    else if a = b then (a, v) :: m
    else (b, w) :: cellSet m a v

/-- Every listed address is at least `lo`, and they rise strictly. -/
def cellsRiseFrom : Nat → List Host.Cell → Bool
  | _, [] => true
  | lo, (b, _) :: m => decide (lo ≤ b) && cellsRiseFrom (b + 1) m

/-- The canonical form of a memory: strictly rising addresses. An unlisted address has no value of its own (it reads as a
free value, log 3), so no entry can equal what an unlisted address lists. -/
def Memory.wf (m : List Host.Cell) : Bool := cellsRiseFrom 0 m

/-- One byte of the two memories: the byte written, or the free contents since the last reset (R44, U1). -/
def readByte (s : State) (a : Nat) : Byte := (cellLookup s.mem a).getD (Config.ramByte s.resets a)

/-- The word at byte address `a`, in the model's byte layout (log 4). -/
def readMemWord (s : State) (a : Nat) : Word :=
  readByte s (a + 3) ++ readByte s (a + 2) ++ readByte s (a + 1) ++ readByte s a

/-- Store a word's four bytes at byte address `a`. -/
def cellSetWord (m : List Host.Cell) (a : Nat) (w : Word) : List Host.Cell :=
  cellSet (cellSet (cellSet (cellSet m a (byteOf w 0)) (a + 1) (byteOf w 1)) (a + 2) (byteOf w 2)) (a + 3) (byteOf w 3)

/-- `SEQ_RAM[n]` as a colour (R44): the reserved byte is no part of it. -/
def seqEntry (s : State) (n : BitVec 6) : Color := wordColor (readMemWord s (seqAddr n))

/-- `INT_RAM[n]` (R44). -/
def intEntry (s : State) (n : BitVec 6) : Word := readMemWord s (intAddr n)

/-- `SEQ_RAM[n]` as a frame operation reads it. Beyond the depth the spec has no entry: a fault no run reaches (log 10). -/
def seqAt (s : State) (n : Nat) : Except Fault Color :=
  if n < Config.pSeqDepth then .ok (seqEntry s (BitVec.ofNat 6 n)) else .error (.entryBeyondDepth n)

/-- `(a + 1) mod n`, a fault for `n = 0`, where the spec gives `mod` no value (R10; log 10). -/
def nextIndex (i n : Nat) : Except Fault Nat :=
  if n = 0 then .error .zeroModulus else .ok ((i + 1) % n)

/-! ### Error events: the one place where an error is recorded (R200 to R205, R208) -/

/-- The run's end (R136). -/
def endRun (st : RunState) (s : State) : State :=
  { s with
    status := { s.status with state := st }
    eng := { s.eng with
      phase := .idle, p := 0, act := [], dl := [], q := 0, dly := 0, dlyActive := false, stop := false }
    port := { s.port with wrReq := false, rndReq := false } }

/-- An error event is taken: nothing is saved and control goes nowhere, the event is recorded in `STATUS`. Recovery is by
the commands `START`, `CONFIGURE` and `CLRERR` (R209). -/
def raiseError (e : ErrorEvent) (s : State) : State :=
  match e with
  | .configuration code =>
    { s with status := { s.status with state := .configError, cfgErr := code, mode := 0, modeValid := false } }
  | .bus => endRun .busError s
  | .command => { s with status := { s.status with cmdErr := true } }
  | .ignoredWrite => { s with status := { s.status with wrIgnored := true } }

/-! ### Host register access (spec 20) -/

/-- The host's view of a register: reserved bits read 0, CMD reads 0 (R63). -/
def readReg (r : Reg) (s : State) : Word :=
  match r with
  | .cmd => 0
  | .status => statusWord s
  | .flags => s.cfg.flags.setWidth 32
  | .channels => s.cfg.channels.setWidth 32
  | .rgb => colorWord s.cfg.rgb
  | .startColor => colorWord s.cfg.startColor
  | .interval => s.cfg.interval
  | .frameCount => s.cfg.frameCount.setWidth 32
  | .seqLen => s.cfg.seqLen.setWidth 32
  | .intLen => s.cfg.intLen.setWidth 32
  | .frameRemain => s.eng.fc.setWidth 32
  | .seqIndex => s.eng.iSeq.setWidth 32
  | .intIndex => s.eng.iInt.setWidth 32
  | .curColor => colorWord s.curColor
  | .convIn => colorWord s.convIn
  | .convR => (toDuty s.convIn.r).setWidth 32
  | .convG => (toDuty s.convIn.g).setWidth 32
  | .convB => (toDuty s.convIn.b).setWidth 32
  | .caps => BitVec.ofNat 16 Config.pTicksPerSec ++ BitVec.ofNat 8 Config.pIntDepth ++ BitVec.ofNat 8 Config.pSeqDepth
  | .seqRam n => colorWord (seqEntry s n)
  | .intRam n => intEntry s n

/-- `MemRead(addr, 4)` (R63): misaligned addresses and reserved offsets read 0 (R62, R65). -/
def memRead (a : BitVec 12) (s : State) : Word :=
  match regAt a with
  | some r => readReg r s
  | none => 0

/-- The answer of a host step with the read strobe set stands on `h_rdata`. -/
def setRdata (w : Word) (s : State) : State := { s with port := { s.port with hRdata := w } }

/-- Store a host word in a register: the CFG registers, the window entries and `CONV_IN` take `v AND WMASK`; no other
register takes anything (R64, R68). -/
def storeReg (r : Reg) (v : Word) (s : State) : State :=
  match r with
  | .flags => { s with cfg := { s.cfg with flags := v.extractLsb' 0 8 } }
  | .channels => { s with cfg := { s.cfg with channels := v.extractLsb' 0 12 } }
  | .rgb => { s with cfg := { s.cfg with rgb := wordColor v } }
  | .startColor => { s with cfg := { s.cfg with startColor := wordColor v } }
  | .interval => { s with cfg := { s.cfg with interval := v } }
  | .frameCount => { s with cfg := { s.cfg with frameCount := v.extractLsb' 0 16 } }
  | .seqLen => { s with cfg := { s.cfg with seqLen := v.extractLsb' 0 7 } }
  | .intLen => { s with cfg := { s.cfg with intLen := v.extractLsb' 0 7 } }
  | .convIn => { s with convIn := wordColor v }
  | .seqRam n => { s with mem := cellSetWord s.mem (seqAddr n) (v &&& writeMask (.seqRam n)) }
  | .intRam n => { s with mem := cellSetWord s.mem (intAddr n) v }
  | .cmd | .status | .frameRemain | .seqIndex | .intIndex | .curColor | .convR | .convG | .convB | .caps => s

/-- `Invalidate()` (R67). -/
def invalidate (s : State) : State :=
  { s with status := { s.status with state := .unconfigured, mode := 0, modeValid := false, cfgErr := .none } }

/-- `MemWrite(addr, 4, v)` at an address other than `CMD` (R64 to R68): a CFG write is dropped while RUNNING and sets
WR_IGNORED, and otherwise is taken and invalidates. -/
def memWrite (a : BitVec 12) (v : Word) (s : State) : State :=
  match regAt a with
  | none => s
  | some r =>
    match regAccess r with
    | .cfg => if s.status.state = .running then raiseError .ignoredWrite s else invalidate (storeReg r v s)
    | .rw => storeReg r v s
    | .ro | .wo => s

/-! ### The frame sequencer's shared steps (R131 to R136) -/

/-- What a frame operation builds: the actions, and the new `S` and `T`. -/
structure Frame where
  act : List Action
  src : Color
  tgt : Color
deriving DecidableEq, Repr

/-- The frame operation's actions and colours are taken, and the ENGINE issues from the first action (R132). -/
def takeFrame (r : Frame) (s : State) : State :=
  { s with eng := { s.eng with act := r.act, src := r.src, tgt := r.tgt, p := 0, phase := .issue } }

/-- `Build()` of R132. -/
def buildFrame (frame : State → Except Fault Frame) (s : State) : Result :=
  match frame s with
  | .error f => .fault f
  | .ok r => .next (takeFrame r s)

/-- The frame's draws are set up: `DL`, `q`, `DV` of R131. -/
def setDraws (dl : List Nat) (s : State) : State :=
  { s with eng := { s.eng with dl := dl, q := 0, dv := Vector.replicate 6 0 } }

/-- A random word is requested: `rnd_req <- 1`, phase DRAW (R131, R175). -/
def requestDraws (s : State) : State :=
  { s with port := { s.port with rndReq := true }, eng := { s.eng with phase := .draw, p := 0 } }

/-- `BeginFrame()` of R131: the once-per-frame stop check, then the draws, or the frame at once if it has none. -/
def beginFrame (draws : State → List Nat) (frame : State → Except Fault Frame) (s : State) : Result :=
  if s.eng.stop then .next (endRun .cancelled s)
  else match draws s with
    | [] => buildFrame frame (setDraws [] s)
    | n :: ns => .next (requestDraws (setDraws (n :: ns) s))

/-- `EndFrame()` of R135 after the mode's commit: `FIRST <- 0`, then the run's end or the next frame. -/
def closeFrame (s : State) : State :=
  if s.eng.fc = 0 then endRun .done { s with eng := { s.eng with first := false } }
  else { s with eng := { s.eng with first := false, fc := s.eng.fc - 1, phase := .begin, p := 0 } }

/-- `EndFrame()` of R135. -/
def endFrame (commit : State → Except Fault State) (s : State) : Result :=
  match commit s with
  | .error f => .fault f
  | .ok s' => .next (closeFrame s')

/-- A frame operation at the three points where the mode decides what happens: its begin (R131), its build once all draws
are answered (R132), and its end (R135). In the other phases the frame's actions are being performed, or no run is in
progress, and the frame operation does nothing (log 8). -/
def frameOperation (draws : State → List Nat) (frame : State → Except Fault Frame)
    (commit : State → Except Fault State) (s : State) : Result :=
  match s.eng.phase with
  | .begin => beginFrame draws frame s
  | .draw => if s.eng.q = s.eng.dl.length then buildFrame frame s else .next s
  | .finish => endFrame commit s
  | .idle | .issue | .waitWr | .waitTick => .next s

/-- A draw result is taken: `DV[q] <- v; q <- q + 1`, and the last one drops `rnd_req` (R132, R175). -/
def fillDraw (v : Word) (s : State) : State :=
  { s with
    eng := { s.eng with dv := s.eng.dv.setIfInBounds s.eng.q v, q := s.eng.q + 1 }
    port := { s.port with rndReq := decide (s.eng.q + 1 ≠ s.eng.dl.length) && s.port.rndReq } }

/-- One random answer: the next draw is `w mod DL[q]` (R132, R175). A bound of 0 has no remainder: a fault no run reaches
(log 10). -/
def drawAnswer (w : Word) (bound : Nat) (s : State) : Except Fault State :=
  if bound = 0 then .error .zeroModulus else .ok (fillDraw (BitVec.ofNat 32 (w.toNat % bound)) s)

/-- The position moves to `(ISSUE, p + 1)`: one action is completed (R47). -/
def nextAction (s : State) : State := { s with eng := { s.eng with phase := .issue, p := s.eng.p + 1 } }

/-- A trace entry is added (R12). -/
def record (i : TraceItem) (s : State) : State := { s with trace := s.trace ++ [i] }

/-- `StartWait(t)` of R134: a wait of 0 ticks is completed at once. -/
def startWait (t : Word) (s : State) : State :=
  if t = 0 then nextAction (record (.wait t) s)
  else { s with eng := { s.eng with dly := t, dlyActive := true, phase := .waitTick } }

/-- The wait action the position stands at, for the trace. -/
def currentWait (s : State) : Word :=
  match s.eng.act[s.eng.p]? with
  | some (.wt t) => t
  | _ => 0

/-- `Tick()` of R134: a pulse counts only in phase WAIT_TICK. -/
def tickPulse (s : State) : State :=
  if s.eng.phase = .waitTick then
    let s' := { s with eng := { s.eng with dly := s.eng.dly - 1 } }
    if s'.eng.dly = 0 then
      nextAction (record (.wait (currentWait s)) { s' with eng := { s'.eng with dlyActive := false } })
    else s'
  else s

/-- The lane and value of the write action about to be issued are latched in `WRB` (R133). -/
def latchWrite (x : Lane) (v : Byte) (s : State) : State :=
  { s with eng := { s.eng with wrb := { s.eng.wrb with lane := x, value := v } } }

/-- The output port takes the transaction `ChWrite(ch, 0, off)` and the ENGINE waits for the answer (R133, R170, R171). -/
def issueWrite (ch : BitVec 4) (off : BitVec 12) (s : State) : State :=
  { s with
    port := { s.port with wrReq := true, wrCh := ch, wrOn := 0, wrOff := off }
    eng := { s.eng with wrb := { s.eng.wrb with ch := ch, off := off }, phase := .waitWr } }

/-- `Respond(fail)` of R133, for an outstanding request: the answer is traced, `wr_req` drops, and the run goes on with the
lane's `CUR_COLOR` updated, or ends by `BusError`. -/
def respond (fail : Bool) (s : State) : State :=
  let s' := record (.write s.port.wrCh s.port.wrOn s.port.wrOff (!fail)) { s with port := { s.port with wrReq := false } }
  if fail then raiseError .bus s'
  else nextAction { s' with curColor := setLane s.eng.wrb.lane s.eng.wrb.value s.curColor }

/-! ### Reset (R230) -/

/-- `Reset()`: every register and internal element to its reset value, the memories to new free contents. The model's own
fields stay, and so does the DRIVER's side, which PAB's reset does not reach (logs 1, 12, 13). -/
def resetPab (s : State) : State :=
  { State.reset with resets := s.resets + 1, tape := s.tape, trace := s.trace, drv := s.drv }

/-! ### Simultaneous inputs (R206) -/

/-- The steps that sampling the inputs of one clock edge stands for, in the order of R206: reset discards the rest. The
ENGINE steps last, in the edges in which its own step falls (R7 and R250 leave open which: log 1). -/
def Edge.events (e : Edge) : List Event :=
  if e.rst then [.reset]
  else e.host.toList.map .host ++ e.wrDone.toList.map .driver ++ (if e.tick then [.tick] else [])
    ++ e.rndData.toList.map .random ++ (if e.engine then [.engine] else [])

/-- One clock edge is offered to the machine: its steps come first on the tape. -/
def offerEdge (e : Edge) (s : State) : State := { s with tape := Edge.events e ++ s.tape }

end Sys2Proof.Machine
end

