-- ==== Sys2Proof/Machine/Commands.lean ====
section
/-! DEFINITION. The five commands (spec 41 R110 to R123). Each is executed in the step of the CMD write. -/

namespace Sys2Proof.Machine

/-- `NOP` (R111): no effect. -/
def execNop (s : State) : Result := .next s

/-- The effect of a permitted `CONFIGURE` (R112): the resolved mode, or the ConfigurationError. -/
def configured (s : State) : State :=
  match resolve s.cfg with
  | (.none, mode) =>
    { s with status := { s.status with state := .ready, cfgErr := .none, mode := mode, modeValid := true } }
  | (code, _) => raiseError (.configuration code) s

/-- `CONFIGURE` (R112): a CommandError while RUNNING (R110). -/
def execConfigure (s : State) : Result :=
  if s.status.state = .running then .next (raiseError .command s) else .next (configured s)

/-- The effect of a permitted `START` (R121). A new run begins, so its trace is empty (R13; log 12). -/
def startRun (s : State) : State :=
  { s with
    status := { s.status with state := .running }
    eng := { s.eng with
      fc := s.cfg.frameCount, iSeq := 0, iInt := 0, stop := false, first := true
      src := black, tgt := black, act := [], dl := [], q := 0, dly := 0, phase := .begin, p := 0 }
    trace := [] }

/-- `START` (R121): a CommandError outside READY, DONE, CANCELLED and BUS_ERROR (R110). -/
def execStart (s : State) : Result :=
  if startPermitted s.status.state then .next (startRun s) else .next (raiseError .command s)

/-- The stop flag is set (R27). -/
def requestStop (s : State) : State := { s with eng := { s.eng with stop := true } }

/-- `CANCEL` (R122): sets the stop flag while RUNNING, does nothing otherwise. -/
def execCancel (s : State) : Result :=
  if s.status.state = .running then .next (requestStop s) else .next s

/-- The two sticky flags are cleared (R25, R26). -/
def clearSticky (s : State) : State := { s with status := { s.status with cmdErr := false, wrIgnored := false } }

/-- `CLRERR` (R123): clears the two sticky flags. -/
def execClrerr (s : State) : Result := .next (clearSticky s)

end Sys2Proof.Machine
end

