-- ==== Sys2Proof/Machine/Converter.lean ====
section
/-! DEFINITION. The host reads that convert one lane of `CONV_IN` (spec 40 R103, R104; spec 10 R42). -/

namespace Sys2Proof.Machine

/-- `TODUTY.R`: a read of `CONV_R`. -/
def execTodutyR (s : State) : Result := .next (setRdata ((toDuty s.convIn.r).setWidth 32) s)

/-- `TODUTY.G`: a read of `CONV_G`. -/
def execTodutyG (s : State) : Result := .next (setRdata ((toDuty s.convIn.g).setWidth 32) s)

/-- `TODUTY.B`: a read of `CONV_B`. -/
def execTodutyB (s : State) : Result := .next (setRdata ((toDuty s.convIn.b).setWidth 32) s)

end Sys2Proof.Machine
end

