-- ==== Sys2Proof/Machine/Transition.lean ====
section
/-! DEFINITION. The action lists frames are built from (spec 43): SETCOLOR, RAMP and GOTO. -/

namespace Sys2Proof.Machine

/-- `SETCOLOR(c)` (R160): three write actions in the order red, green, blue. -/
def setColor (c : Color) : List Action := [.wr .r c.r, .wr .g c.g, .wr .b c.b]

/-- The loop of `RAMP` (R161): write `v`, wait, and `n` more times step by `d`. -/
def rampLoop (x : Lane) (d : Byte) (t : Word) : Nat → Byte → List Action
  | 0, v => [.wr x v, .wt t]
  | n + 1, v => .wr x v :: .wt t :: rampLoop x d t n (v + d)

/-- `RAMP(X, a, b, I)` (R161): both ends are written, an unchanged lane writes nothing. -/
def ramp (x : Lane) (a b : Byte) (t : Word) : List Action :=
  if a = b then []
  else if a.toNat < b.toNat then rampLoop x 1 t (b.toNat - a.toNat) a
  else rampLoop x (-1) t (a.toNat - b.toNat) a

/-- `GOTO(s, t, I)` (R162): red fully resolved, then green, then blue. -/
def goto (src tgt : Color) (t : Word) : List Action :=
  ramp .r src.r tgt.r t ++ ramp .g src.g tgt.g t ++ ramp .b src.b tgt.b t

/-- The number of writes of one lane's ramp (R163). -/
def rampWrites (a b : Byte) : Nat :=
  if a = b then 0 else max a.toNat b.toNat - min a.toNat b.toNat + 1

/-- `W` of R163: the number of writes of a crossfade. -/
def gotoWrites (src tgt : Color) : Nat :=
  rampWrites src.r tgt.r + rampWrites src.g tgt.g + rampWrites src.b tgt.b

end Sys2Proof.Machine
end

