-- ==== Sys2Proof/Machine/Modes.lean ====
section
/-! DEFINITION. The eight frame operations (spec 42 R132, R137 to R144): for each its draw bounds, its frame and its commit,
and its meaning over the shared `frameOperation`. -/

namespace Sys2Proof.Machine

/-- The draw bounds of one colour, red, green, blue (R132). -/
def colorDraws : List Nat := [256, 256, 256]

/-- Draw result `k` of the frame. -/
def draw (s : State) (k : Fin 6) : Word := s.eng.dv[k]

/-- The colour of three consecutive draws (R132). -/
def drawnColor (a b c : Word) : Color := ⟨a.setWidth 8, b.setWidth 8, c.setWidth 8⟩

/-- The next in-order sequence index is committed (R139, R140). -/
def commitSeqIndex (s : State) : Except Fault State :=
  match nextIndex s.eng.iSeq.toNat s.cfg.seqLen.toNat with
  | .error f => .error f
  | .ok i => .ok { s with eng := { s.eng with iSeq := BitVec.ofNat 6 i } }

/-- The target becomes the next source (R137, R141). -/
def commitSource (s : State) : Except Fault State := .ok { s with eng := { s.eng with src := s.eng.tgt } }

/-- No commit (R138, R143, R144). -/
def commitNothing (s : State) : Except Fault State := .ok s

/-! ### Mode 0, `M_SEQ_SOFT_RANDOM` (R137) -/

/-- `DRAWS(0, FIRST)` -/
def drawsSeqSoftRandom (s : State) : List Nat :=
  if s.eng.first then [s.cfg.seqLen.toNat, s.cfg.seqLen.toNat] else [s.cfg.seqLen.toNat]

/-- `FRAME_0` -/
def frameSeqSoftRandom (s : State) : Except Fault Frame :=
  if s.eng.first then do
    let src ← seqAt s (draw s 0).toNat
    let tgt ← seqAt s (draw s 1).toNat
    .ok ⟨goto src tgt s.cfg.interval, src, tgt⟩
  else do
    let tgt ← seqAt s (draw s 0).toNat
    .ok ⟨goto s.eng.src tgt s.cfg.interval, s.eng.src, tgt⟩

/-- `M_SEQ_SOFT_RANDOM` (R137): crossfade between randomly chosen sequence elements. -/
def execMSeqSoftRandom (s : State) : Result :=
  frameOperation drawsSeqSoftRandom frameSeqSoftRandom commitSource s

/-! ### Mode 1, `M_SEQ_RANDOM` (R138) -/

/-- `DRAWS(1, FIRST)` -/
def drawsSeqRandom (s : State) : List Nat := [s.cfg.seqLen.toNat]

/-- `FRAME_1` -/
def frameSeqRandom (s : State) : Except Fault Frame := do
  let c ← seqAt s (draw s 0).toNat
  .ok ⟨setColor c ++ [.wt s.cfg.interval], s.eng.src, s.eng.tgt⟩

/-- `M_SEQ_RANDOM` (R138): jump to a random sequence element. -/
def execMSeqRandom (s : State) : Result := frameOperation drawsSeqRandom frameSeqRandom commitNothing s

/-! ### Mode 2, `M_SEQ_SOFT` (R139) -/

/-- No draws (R132). -/
def drawsNone (_ : State) : List Nat := []

/-- `FRAME_2` -/
def frameSeqSoft (s : State) : Except Fault Frame := do
  let src ← seqAt s s.eng.iSeq.toNat
  let j ← nextIndex s.eng.iSeq.toNat s.cfg.seqLen.toNat
  let tgt ← seqAt s j
  .ok ⟨goto src tgt s.cfg.interval, src, tgt⟩

/-- `M_SEQ_SOFT` (R139): crossfade through the sequence in order. -/
def execMSeqSoft (s : State) : Result := frameOperation drawsNone frameSeqSoft commitSeqIndex s

/-! ### Mode 3, `M_SEQUENCE` (R140) -/

/-- `FRAME_3` -/
def frameSequence (s : State) : Except Fault Frame := do
  let c ← seqAt s s.eng.iSeq.toNat
  .ok ⟨setColor c ++ [.wt s.cfg.interval], s.eng.src, s.eng.tgt⟩

/-- `M_SEQUENCE` (R140): jump through the sequence in order. -/
def execMSequence (s : State) : Result := frameOperation drawsNone frameSequence commitSeqIndex s

/-! ### Mode 4, `M_RANDOM_SOFT` (R141) -/

/-- `DRAWS(4, FIRST)` -/
def drawsRandomSoft (s : State) : List Nat :=
  if s.eng.first && !flagStartPresent s.cfg.flags then colorDraws ++ colorDraws else colorDraws

/-- `FRAME_4`: the source and the target, then the crossfade. -/
def frameRandomSoft (s : State) : Except Fault Frame :=
  let c := drawnColor (draw s 0) (draw s 1) (draw s 2)
  let src := if s.eng.first then if flagStartPresent s.cfg.flags then s.cfg.startColor else c else s.eng.src
  let tgt := if s.eng.first && !flagStartPresent s.cfg.flags then drawnColor (draw s 3) (draw s 4) (draw s 5) else c
  .ok ⟨goto src tgt s.cfg.interval, src, tgt⟩

/-- `M_RANDOM_SOFT` (R141): crossfade between successive random colours. -/
def execMRandomSoft (s : State) : Result := frameOperation drawsRandomSoft frameRandomSoft commitSource s

/-! ### Mode 5, `M_RANDOM` (R142) -/

/-- `DRAWS(5, FIRST)` -/
def drawsColor (_ : State) : List Nat := colorDraws

/-- Is the interval sequence in use (R142)? -/
def useInt (s : State) : Bool := flagIntPresent s.cfg.flags && s.cfg.intLen != 0

/-- The main delay `d` of the Random mode (R142). -/
def mainDelay (s : State) : Word := if useInt s then intEntry s s.eng.iInt else s.cfg.interval

/-- `FRAME_5`: the colour, the white flash of `P_FLASH` ticks, the colour again, the main delay. -/
def frameRandom (s : State) : Except Fault Frame :=
  let c := drawnColor (draw s 0) (draw s 1) (draw s 2)
  .ok ⟨setColor c ++ setColor white ++ [.wt Config.pFlash] ++ setColor c ++ [.wt (mainDelay s)], s.eng.src, s.eng.tgt⟩

/-- `Commit_5`: the interval index advances by one, modulo `M`, if the interval sequence is in use. -/
def commitIntIndex (s : State) : Except Fault State :=
  if useInt s then
    match nextIndex s.eng.iInt.toNat s.cfg.intLen.toNat with
    | .error f => .error f
    | .ok i => .ok { s with eng := { s.eng with iInt := BitVec.ofNat 6 i } }
  else .ok s

/-- `M_RANDOM` (R142): jump to a random colour, with a white flash. -/
def execMRandom (s : State) : Result := frameOperation drawsColor frameRandom commitIntIndex s

/-! ### Mode 6, `M_CHAOS` (R143) -/

/-- `DRAWS(6, FIRST)` -/
def drawsChaos (_ : State) : List Nat := colorDraws ++ [Config.pTicksPerSec]

/-- `FRAME_6` -/
def frameChaos (s : State) : Except Fault Frame :=
  .ok ⟨setColor (drawnColor (draw s 0) (draw s 1) (draw s 2)) ++ [.wt (draw s 3)], s.eng.src, s.eng.tgt⟩

/-- `M_CHAOS` (R143): a random colour held for a random delay. -/
def execMChaos (s : State) : Result := frameOperation drawsChaos frameChaos commitNothing s

/-! ### Mode 7, `M_REGULAR` (R144) -/

/-- `FRAME_7` -/
def frameRegular (s : State) : Except Fault Frame :=
  .ok ⟨setColor s.cfg.rgb ++ [.wt s.cfg.interval] ++ setColor black ++ [.wt s.cfg.interval], s.eng.src, s.eng.tgt⟩

/-- `M_REGULAR` (R144): blink between the fixed colour and black. -/
def execMRegular (s : State) : Result := frameOperation drawsNone frameRegular commitNothing s

end Sys2Proof.Machine
end

