-- ==== Sys2Proof/Machine/Output.lean ====
section
/-! DEFINITION. The output port's operation (spec 44 R170, R171). -/

namespace Sys2Proof.Machine

/-- `CHWRITE`: the transaction `ChWrite(ch, 0, off)` is driven on the port (R171). -/
def execChwrite (ch : BitVec 4) (off : BitVec 12) (s : State) : Result := .next (issueWrite ch off s)

end Sys2Proof.Machine
end

