-- ==== Sys2Proof/Machine/Dispatch.lean ====
section
/-! DEFINITION. One arm per constructor of `Instr`: a direct call of its meaning. -/

namespace Sys2Proof.Machine

def exec (i : Instr) (s : State) : Host.Outcome State Fault Refusal :=
  match i with
  -- the commands, spec 41
  | .nop => Sys2Proof.Machine.execNop s
  | .configure => Sys2Proof.Machine.execConfigure s
  | .start => Sys2Proof.Machine.execStart s
  | .cancel => Sys2Proof.Machine.execCancel s
  | .clrerr => Sys2Proof.Machine.execClrerr s
  -- the frame operations, spec 42
  | .mSeqSoftRandom => Sys2Proof.Machine.execMSeqSoftRandom s
  | .mSeqRandom => Sys2Proof.Machine.execMSeqRandom s
  | .mSeqSoft => Sys2Proof.Machine.execMSeqSoft s
  | .mSequence => Sys2Proof.Machine.execMSequence s
  | .mRandomSoft => Sys2Proof.Machine.execMRandomSoft s
  | .mRandom => Sys2Proof.Machine.execMRandom s
  | .mChaos => Sys2Proof.Machine.execMChaos s
  | .mRegular => Sys2Proof.Machine.execMRegular s
  -- the output port, spec 44
  | .chwrite ch off => Sys2Proof.Machine.execChwrite ch off s
  -- the converter reads, spec 40
  | .todutyR => Sys2Proof.Machine.execTodutyR s
  | .todutyG => Sys2Proof.Machine.execTodutyG s
  | .todutyB => Sys2Proof.Machine.execTodutyB s

end Sys2Proof.Machine
end

