-- ==== Sys2Proof/Machine/Driver.lean ====
section
/-! DEFINITION. The DRIVER behind the output port (spec 44 section 2, R176 to R185): the bus operations of a channel write,
of `writeAll`, `setup` and `setFrequency`, and what they leave in the chip. It is the environment's side (00 R4(a)):
nothing of PAB reads it (log 13). -/

namespace Sys2Proof.Machine

/-- A register of the chip, by name (R176, R181, R184). -/
inductive ChipReg where
  | mode1
  | mode2
  | preScale
  /-- Register `k` (on-low, on-high, off-low, off-high) of channel `ch`. -/
  | led (ch : BitVec 4) (k : BitVec 2)
  /-- Register `k` of the "all channels" block. -/
  | allLed (k : BitVec 2)
deriving DecidableEq, Repr

/-- One thing the DRIVER does with its chip, by the chip's register names: the two primitives of R71 and R177, and the
settle delay of R178 and R179. -/
inductive BusOp where
  | write (r : ChipReg) (v : Byte)
  | read (r : ChipReg)
  | settle
deriving DecidableEq, Repr

/-- A call of the bus collaborator (R71, R177). -/
inductive BusTransfer where
  /-- `writeRegister(addr, reg, byte)` -/
  | writeRegister (addr : BitVec 7) (reg : Byte) (byte : Byte)
  /-- `readRegister(addr, reg)`, which answers a byte -/
  | readRegister (addr : BitVec 7) (reg : Byte)
deriving DecidableEq, Repr

/-- The single-byte offset of a chip register on the bus (R71), over the OPEN parameters (R176, R181, R184). -/
def chipOffset : ChipReg → Byte
  | .mode1 => Config.mode1Reg
  | .mode2 => Config.mode2Reg
  | .preScale => Config.preScaleReg
  | .led ch k => Config.pBaseReg + BitVec.ofNat 8 (4 * ch.toNat + k.toNat)
  | .allLed k => Config.pAllBaseReg + k.setWidth 8

/-- What goes over the bus for one thing the DRIVER does: a call at the chip's address (R71), or nothing for a delay. -/
def busTransfer : BusOp → Option BusTransfer
  | .write r v => some (.writeRegister Config.pChipAddr (chipOffset r) v)
  | .read r => some (.readRegister Config.pChipAddr (chipOffset r))
  | .settle => none

/-- Byte `k` of an (on, off) pair: on-low, on-high, off-low, off-high (R176). -/
def countByte (on off : BitVec 12) (k : BitVec 2) : Byte :=
  match k.toNat with
  | 0 => on.extractLsb' 0 8
  | 1 => (on.extractLsb' 8 4).setWidth 8
  | 2 => off.extractLsb' 0 8
  | _ => (off.extractLsb' 8 4).setWidth 8

/-- The four registers of a group, in write order (R176). -/
def groupOrder : List (BitVec 2) := [0, 1, 2, 3]

/-- The bus writes of `ChWrite(ch, on, off)` (R176). -/
def chWriteOps (ch : BitVec 4) (on off : BitVec 12) : List BusOp :=
  groupOrder.map fun k => .write (.led ch k) (countByte on off k)

/-- The bus writes of `writeAll(on, off)` (R181). -/
def writeAllOps (on off : BitVec 12) : List BusOp :=
  groupOrder.map fun k => .write (.allLed k) (countByte on off k)

/-- The key of channel register `k` of channel `ch` among the known channel registers: its offset from `P_BASE_REG`. -/
def ledKey (ch : BitVec 4) (k : BitVec 2) : Nat := 4 * ch.toNat + k.toNat

/-- The sixteen channels. -/
def allChannels : List (BitVec 4) := (List.range 16).map (BitVec.ofNat 4)

/-- What one bus operation leaves in the chip; a read changes nothing. -/
def applyBusOp (d : Driver) : BusOp → Driver
  | .write .mode1 v => { d with mode1 := v }
  | .write .mode2 v => { d with mode2 := v }
  | .write .preScale v => { d with preScale := v }
  | .write (.led ch k) v => { d with leds := cellSet d.leds (ledKey ch k) v }
  | .write (.allLed k) v => { d with leds := allChannels.foldl (fun m ch => cellSet m (ledKey ch k) v) d.leds }
  | .read _ => d
  | .settle => d

/-- A list of bus operations, in order. -/
def runBusOps (ops : List BusOp) (d : Driver) : Driver := ops.foldl applyBusOp d

/-- What channel register `k` of channel `ch` holds: the byte it was set to, or what it has held since power-on or the
chip's last sleep, a free value (U18). -/
def ledByte (d : Driver) (ch : BitVec 4) (k : BitVec 2) : Byte :=
  (cellLookup d.leds (ledKey ch k)).getD (Config.chipByte d.sleeps (ledKey ch k))

/-- The byte `readRegister` answers (R71, R177). -/
def readChip (d : Driver) : ChipReg → Byte
  | .mode1 => d.mode1
  | .mode2 => d.mode2
  | .preScale => d.preScale
  | .led ch k => ledByte d ch k
  | .allLed k => Config.allLedByte d.sleeps k

/-- A channel's last-programmed pair is recorded (R177). -/
def recordPair (ch : BitVec 4) (on off : BitVec 12) (d : Driver) : Driver :=
  { d with pairs := d.pairs.set ch.toNat (on, off) ch.isLt }

/-- A request on this channel has failed: what its four registers hold is unknown (R217, U9), and so is its last-programmed
pair (R177; log 13). The other channels are not touched. -/
def forgetChannel (ch : BitVec 4) (d : Driver) : Driver :=
  { recordPair ch (Config.chipPair d.losses).1 (Config.chipPair d.losses).2
      (runBusOps (groupOrder.map fun k => .write (.led ch k) (Config.lostByte d.losses k)) d) with
    losses := d.losses + 1 }

/-- The pair a channel's `n` first register writes of four leave as its last-programmed one (R177; log 13). -/
def pairAfter (n : Fin 5) (ch : BitVec 4) (on off : BitVec 12) (d : Driver) : BitVec 12 × BitVec 12 :=
  if n = 0 then d.pairs[ch.toNat]'ch.isLt else if n = 4 then (on, off) else Config.chipPair d.losses

/-- A reset abandons a request of which the DRIVER has done the first `n` of the four register writes, in their order
(R176, R245, U10): the other registers of the channel, and every other channel, hold what they held (R217). -/
def abandonWrite (n : Fin 5) (ch : BitVec 4) (on off : BitVec 12) (d : Driver) : Driver :=
  { recordPair ch (pairAfter n ch on off d).1 (pairAfter n ch on off d).2
      (runBusOps ((chWriteOps ch on off).take n) d) with
    losses := d.losses + 1 }

/-- Every channel register becomes unknown: the spec does not say what they hold across the chip's sleep (R216, U18). -/
def forgetChannels (d : Driver) : Driver := { d with leds := [], sleeps := d.sleeps + 1 }

/-- The bus operations of `setup()`, in the order of R178, on a chip whose mode registers hold `m1` and `m2` (log 15). -/
def setupOps (m1 m2 : Byte) : List BusOp :=
  writeAllOps 0 0 ++
    [.write .mode2 (m2 ||| Config.mode2OutDrv),
     .write .mode1 (m1 ||| Config.mode1AllCall),
     .settle,
     .write .mode1 ((m1 ||| Config.mode1AllCall) &&& ~~~Config.mode1Sleep)]

/-- `round(P_OSC_HZ / (4096 · hz)) − 1` (R179), `none` where it does not fit the 8-bit register or `hz = 0` (U15). -/
def prescale (hz : Nat) : Option Byte :=
  let r := (2 * Config.pOscHz + 4096 * hz) / (2 * (4096 * hz))
  if hz = 0 ∨ r = 0 ∨ 256 < r then none else some (BitVec.ofNat 8 (r - 1))

/-- The bus operations of `setFrequency` (R179): read, sleep, write, restore, settle, restart, with `old` the byte the
read of MODE1 answers. -/
def setFrequencyOps (old pre : Byte) : List BusOp :=
  [.read .mode1,
   .write .mode1 (old ||| Config.mode1Sleep),
   .write .preScale pre,
   .write .mode1 old,
   .settle,
   .write .mode1 (old ||| Config.mode1Restart)]

/-- The DRIVER's `setup()` step (R178), the first one and every later one: R245 names it as the recovery after a reset
(log 15). During a run it has no move: its `writeAll` "is never used during a run" (R181). -/
def setupStep (s : State) : Result :=
  if s.status.state = .running then .refused .setupDuringRun
  else .next { s with
    drv := { runBusOps (setupOps s.drv.mode1 s.drv.mode2) s.drv with
      ready := true, frequency := Config.defaultFrequency, pairs := Vector.replicate 16 (0, 0) } }

/-- The DRIVER's `setFrequency(hz)`, one atomic step (R179, R180), after which the channel registers are unknown (U18). -/
def setFrequencyStep (hz : Nat) (s : State) : Result :=
  if s.drv.ready then
    match prescale hz with
    | none => .refused .prescaleRange
    | some pre =>
      .next { s with
        drv := { forgetChannels (runBusOps (setFrequencyOps (readChip s.drv .mode1) pre) s.drv) with frequency := hz } }
  else .refused .driverNotReady

/-- Would this command begin a run before `setup()` has completed? It is the HOST's duty that none does (R14, R182, U8):
PAB itself cannot see it (D54), so `exec` does not ask, and the host's step gives it no move. -/
def setupOwed (i : Instr) (s : State) : Bool := i == .start && startPermitted s.status.state && !s.drv.ready

/-- What an answered request leaves behind the port: the pair and the four registers after `ok` (R172, R176, R177), an
unknown channel after `fail` (R183, U9). When between request and answer the DRIVER does the four register writes is not in
the spec: DESIGN CHOICE, all four stand in the answer step, so a `setFrequency` between the two comes before them (log 22). -/
def chipAnswered (fail : Bool) (s : State) : State :=
  { s with
    drv :=
      if fail then forgetChannel s.port.wrCh s.drv
      else recordPair s.port.wrCh s.port.wrOn s.port.wrOff
        (runBusOps (chWriteOps s.port.wrCh s.port.wrOn s.port.wrOff) s.drv) }

/-- A reset abandons an outstanding request: the chip got it fully, partly or not at all (R230, R245, U10; log 13). -/
def chipAbandoned (s : State) : State :=
  { s with
    drv :=
      if s.port.wrReq then
        abandonWrite (Config.abandonedWrites s.drv.losses) s.port.wrCh s.port.wrOn s.port.wrOff s.drv
      else s.drv }

end Sys2Proof.Machine
end

