-- ==== Sys2Proof/Machine/Fetch.lean ====
section
/-! DEFINITION. Where operations come from: the step of each agent (spec 00 R7, 42 R147) and the operation it fetches, a CMD
word, a converter read, the mode code in `STATUS.MODE`, or the write action at `p`; and the placing of a table word where
the next step fetches it (log 2). -/

namespace Sys2Proof.Machine

/-- A host write (R64): a word written to CMD is decoded and executed in this step, an illegal one is a CommandError (R110).
A `START` of a run before `setup()` has no move (R14, U8). -/
def hostWrite (a : BitVec 12) (v : Word) (s : State) : Result :=
  if regAt a = some .cmd then
    match decode .cmd v with
    | .ok i => if setupOwed i s then .refused .startBeforeSetup else exec i s
    | .error _ => .next (raiseError .command s)
  else .next (memWrite a v s)

/-- A host read (R63): the three converter addresses are operations of the table, every other address reads its register. -/
def hostRead (a : BitVec 12) (s : State) : Result :=
  match decode .duty (a.setWidth 32) with
  | .ok i => exec i s
  | .error _ => .next (setRdata (memRead a s) s)

/-- A HOST step (R60): with both strobes a write only, `h_rdata` 0; a byte or half-word access is refused (R69, U14). -/
def hostStep (a : HostAccess) (s : State) : Result :=
  if a.wr || a.rd then
    if a.size = .word then
      if a.wr then hostWrite a.addr a.wdata (if a.rd then setRdata 0 s else s) else hostRead a.addr s
    else .refused .narrowAccess
  else .next s

/-- `Issue()` (R133): the end of the list (a step of its own, log 18), a write action (its lane and value latched before the
CHWRITE, log 17), or a wait action. -/
def issueStep (s : State) : Result :=
  match s.eng.act[s.eng.p]? with
  | none => .next { s with eng := { s.eng with phase := .finish } }
  | some (.wr x v) => exec (.chwrite (channelOf x s.cfg.channels) (toDuty v)) (latchWrite x v s)
  | some (.wt t) => .next (startWait t s)

/-- The ENGINE's step (R147), only while RUNNING (R5): the resolved mode's frame operation in BEGIN and END, `Issue` in
ISSUE; in the other phases and outside a run it has none. -/
def engineStep (s : State) : Result :=
  if s.status.state = .running then
    match s.eng.phase with
    | .begin | .finish => exec (decodeMode s.status.mode) s
    | .issue => issueStep s
    | .idle | .draw | .waitWr | .waitTick => .next s
  else .next s

/-- A DRIVER answer (R172): ignored outside a request (R170). Within one it is the present request's answer: the port
cannot tell a late `wr_done` of a request that a reset abandoned from it (R230; DESIGN CHOICE, log 21). Before `setup()`
no channel write happens, so there is no answer to give (R177, R182). -/
def driverStep (fail : Bool) (s : State) : Result :=
  if s.eng.phase = .waitWr ∧ s.port.wrReq = true then
    if s.drv.ready then .next (respond fail (chipAnswered fail s)) else .refused .driverNotReady
  else .next s

/-- A RANDOM answer (R132, R175): ignored outside a request; the last draw runs the mode's frame operation, which builds. -/
def randomStep (w : Word) (s : State) : Result :=
  if s.eng.phase = .draw ∧ s.port.rndReq = true then
    match s.eng.dl[s.eng.q]? with
    | none => .next s
    | some n =>
      match drawAnswer w n s with
      | .error f => .fault f
      | .ok s' => if s'.eng.q = s'.eng.dl.length then exec (decodeMode s'.status.mode) s' else .next s'
  else .next s

/-- A reset step (R230). -/
def resetStep (s : State) : State := resetPab (chipAbandoned s)

/-- One step of the agent the tape's entry names. -/
def stepEvent (e : Event) (s : State) : Result :=
  match e with
  | .reset => .next (resetStep s)
  | .host a => hostStep a s
  | .driver fail => driverStep fail s
  | .tick => .next (tickPulse s)
  | .random w => randomStep w s
  | .engine => engineStep s
  | .driverSetup => setupStep s
  | .driverSetFrequency hz => setFrequencyStep hz s

/-! ### Placing a table word where the next step fetches it (log 2) -/

/-- FLAGS that resolve to a mode code (R117). -/
def modeFlags (m : BitVec 3) : BitVec 8 :=
  match m.toNat with
  | 0 => 0x13
  | 1 => 0x12
  | 2 => 0x11
  | 3 => 0x10
  | 4 => 0x05
  | 5 => 0x04
  | 6 => 0x08
  | _ => 0x20

/-- The DRIVER is set up (R233 step 2), as every run needs (R14). -/
def withDriverReady (s : State) : State := { s with drv := { s.drv with ready := true } }

/-- A run of mode `m` that has just started on channels `ch`, `ch + 1`, `ch + 2`, with a sequence of one black element and
no interval sequence: what the configuration writes, `CONFIGURE` and `START` of R233 leave. -/
def placeRun (m : BitVec 3) (ch : BitVec 4) (s : State) : State :=
  let c := { s.cfg with flags := modeFlags m, channels := (ch + 2) ++ (ch + 1) ++ ch, seqLen := 1, intLen := 0 }
  withDriverReady (startRun (configured (storeReg (.seqRam 0) 0 { endRun .done s with cfg := c })))

/-- One more step stands at the head of the tape. -/
def pushEvent (e : Event) (s : State) : State := { s with tape := e :: s.tape }

/-- A word of a format, placed where the very next step fetches it. -/
def placeWord (f : Format) (w : Word) (s : State) : State :=
  match f with
  | .cmd => pushEvent (.host ⟨true, false, 0x000, w, .word⟩) (withDriverReady s)
  | .duty => pushEvent (.host ⟨false, true, w.extractLsb' 0 12, 0, .word⟩) s
  | .mode => pushEvent .engine (placeRun (w.extractLsb' 0 3) 0 s)
  | .out =>
    let s' := placeRun 3 (w.extractLsb' 24 4) s
    let v := (componentWithDuty (w.extractLsb' 0 12)).getD 0
    pushEvent .engine (latchWrite .r v { s' with eng := { s'.eng with act := [.wr .r v], phase := .issue } })

/-- The table's word of `nbits` bits, placed (nothing is placed for a width no row has). -/
def placeTableWord (nbits w : Nat) (s : State) : State :=
  match formatOfBits nbits with
  | none => s
  | some f => placeWord f (BitVec.ofNat 32 w) s

end Sys2Proof.Machine
end

