-- ==== Sys2Proof/Machine/Step.lean ====
section
/-! DEFINITION. One step of the machine: the agent at the head of the tape steps; with an empty tape the ENGINE steps, if it
can (log 1). -/

namespace Sys2Proof.Machine

/-- One step (R7). -/
def step (s : State) : Host.Outcome State Fault Refusal :=
  match s.tape with
  | [] => engineStep s
  | e :: rest => stepEvent e { s with tape := rest }

/-- `s` with the table's word `w` of `nbits` bits placed where the next step fetches it (log 2). -/
def State.withFetchWord (s : State) (nbits w : Nat) : State := placeTableWord nbits w s

end Sys2Proof.Machine
end

