-- ==== Sys2Proof/Machine/HostProgram.lean ====
section
/-! DEFINITION. The host-program syntax (spec 30 R90, R91): the tape entry each line stands for. A POLL is a host loop, so its
number of reads is the host's: `linePoll` gives the tape of any number of them. -/

namespace Sys2Proof.Machine

/-- `COLOR(r, g, b)` of R90. -/
def colorValue (r g b : Byte) : Word := colorWord ⟨r, g, b⟩

/-- `CH(r, g, b)` of R90. -/
def chValue (r g b : BitVec 4) : Word := (b ++ g ++ r).setWidth 32

/-- `WR <offset>, <value>`. -/
def lineWrAt (a : BitVec 12) (v : Word) : Event := .host ⟨true, false, a, v, .word⟩

/-- `RD <offset>`. -/
def lineRdAt (a : BitVec 12) : Event := .host ⟨false, true, a, 0, .word⟩

/-- `WR <reg>, <value>`. -/
def lineWr (r : Reg) (v : Word) : Event := lineWrAt (regOffset r) v

/-- `RD <reg>`. -/
def lineRd (r : Reg) : Event := lineRdAt (regOffset r)

/-- The pseudo-instruction of a command: `WR CMD, <its word>` (R91). -/
def lineCmd (i : Instr) : Event := lineWr .cmd (encode i).2

/-- `k` reads of a `POLL <reg>` line, of `WAITRUN` for the register `STATUS` (R91). -/
def linePoll (r : Reg) (k : Nat) : List Event := List.replicate k (lineRd r)

/-- `SEQ n, r, g, b` (R91). -/
def lineSeq (n : BitVec 6) (r g b : Byte) : Event := lineWr (.seqRam n) (colorValue r g b)

/-- `IVL n, t` (R91). -/
def lineIvl (n : BitVec 6) (t : Word) : Event := lineWr (.intRam n) t

end Sys2Proof.Machine
end

