-- ==== Sys2Proof/Safety.lean ====
section
/-! DEFINITION. The terms claims about PAB are stated in: what a run shows (spec 00 R12, R13), the invariants of every
reachable state (spec 10 R50 and the rules it derives from), and the schedules that perform a frame. -/

namespace Sys2Proof.Safety

open Sys2Proof.Machine

/-! ### Observations -/

/-- What a run shows at its end (R13). -/
structure Observation where
  trace : List TraceItem
  status : Word
  frameRemain : Word
  seqIndex : Word
  intIndex : Word
  curColor : Word
deriving DecidableEq, Repr

/-- The observation of the state in which a run has ended (R13). -/
def observe (s : State) : Observation :=
  ⟨s.trace, readReg .status s, readReg .frameRemain s, readReg .seqIndex s, readReg .intIndex s, readReg .curColor s⟩

/-- The three states that the end of a run sets (R13, R136). A reset ends a run as well, into `UNCONFIGURED`: see
`endsRun`. -/
def runEnded : RunState → Bool
  | .done | .cancelled | .busError => true
  | .unconfigured | .ready | .running | .configError => false

/-- The state a step leaves, if it leaves one. -/
def nextState : Result → Option State
  | .next s => some s
  | .fault _ => none
  | .refused _ => none

/-- The step that comes next: the head of the tape, the ENGINE's own step when the tape is empty (log 1). -/
def nextEvent (s : State) : Event := s.tape.headD .engine

/-- The head of the tape is taken off, as `step` does before the agent steps. -/
def popped (s : State) : State := { s with tape := s.tape.tail }

/-- `k` steps, stopping at the first fault or refusal. -/
def runSteps : Nat → State → Result
  | 0, s => .next s
  | k + 1, s =>
    match step s with
    | .next t => runSteps k t
    | .fault f => .fault f
    | .refused r => .refused r

/-- Does the step from `s` to `t` end a run (R13)? It sets `STATE` to `DONE`, `CANCELLED` or `BUS_ERROR`, or it is a reset. -/
def endsRun (s t : State) : Bool :=
  decide (s.status.state = .running) && (runEnded t.status.state || decide (nextEvent s = .reset))

/-- The observation of the run that `s` is in (R13), if it ends within `k` steps: what the state shows that the ending step
leaves, the reset step included (log 12). -/
def observeRun : Nat → State → Option Observation
  | 0, _ => none
  | k + 1, s =>
    match step s with
    | .next t => if endsRun s t then some (observe t) else observeRun k t
    | .fault _ => none
    | .refused _ => none

/-! ### The eight frame operations -/

/-- Is this one of the eight frame operations (R84)? -/
def isMode : Instr → Bool
  | .mSeqSoftRandom | .mSeqRandom | .mSeqSoft | .mSequence | .mRandomSoft | .mRandom | .mChaos | .mRegular => true
  | .nop | .configure | .start | .cancel | .clrerr | .chwrite _ _ | .todutyR | .todutyG | .todutyB => false

/-- Does this frame operation read the colour sequence (R120)? -/
def isSequenceMode : Instr → Bool
  | .mSeqSoftRandom | .mSeqRandom | .mSeqSoft | .mSequence => true
  | .mRandomSoft | .mRandom | .mChaos | .mRegular
  | .nop | .configure | .start | .cancel | .clrerr | .chwrite _ _ | .todutyR | .todutyG | .todutyB => false

/-- Does this frame operation go through the sequence in order (R39)? -/
def isInOrder : Instr → Bool
  | .mSeqSoft | .mSequence => true
  | .mSeqSoftRandom | .mSeqRandom | .mRandomSoft | .mRandom | .mChaos | .mRegular
  | .nop | .configure | .start | .cancel | .clrerr | .chwrite _ _ | .todutyR | .todutyG | .todutyB => false

/-- The table `DRAWS(mode, FIRST)` of R132. -/
def drawTable (i : Instr) (s : State) : List Nat :=
  let l := s.cfg.seqLen.toNat
  match i with
  | .mSeqSoftRandom => if s.eng.first then [l, l] else [l]
  | .mSeqRandom => [l]
  | .mRandomSoft =>
    if s.eng.first ∧ flagStartPresent s.cfg.flags = false then [256, 256, 256, 256, 256, 256] else [256, 256, 256]
  | .mRandom => [256, 256, 256]
  | .mChaos => [256, 256, 256, 1000]
  | .mSeqSoft | .mSequence | .mRegular
  | .nop | .configure | .start | .cancel | .clrerr | .chwrite _ _ | .todutyR | .todutyG | .todutyB => []

/-- The frame that a frame operation builds (R137 to R144); the other operations build none. -/
def modeFrame (i : Instr) (s : State) : Except Fault Frame :=
  match i with
  | .mSeqSoftRandom => frameSeqSoftRandom s
  | .mSeqRandom => frameSeqRandom s
  | .mSeqSoft => frameSeqSoft s
  | .mSequence => frameSequence s
  | .mRandomSoft => frameRandomSoft s
  | .mRandom => frameRandom s
  | .mChaos => frameChaos s
  | .mRegular => frameRegular s
  | .nop | .configure | .start | .cancel | .clrerr | .chwrite _ _ | .todutyR | .todutyG | .todutyB =>
    .ok ⟨[], black, black⟩

/-- Is a built frame being performed or closed in this phase (R45)? -/
def performing : Phase → Bool
  | .issue | .waitWr | .waitTick | .finish => true
  | .idle | .begin | .draw => false

/-- Do two states agree on everything the run of this mode reads (the table of R120)? `CHANNELS` is read by every
mode, `FRAME_COUNT` by `START` alone. -/
def sameReads (i : Instr) (s s' : State) : Prop :=
  s.cfg.channels = s'.cfg.channels ∧
  match i with
  | .mSeqSoftRandom | .mSeqRandom | .mSeqSoft | .mSequence =>
    s.cfg.interval = s'.cfg.interval ∧ s.cfg.seqLen = s'.cfg.seqLen ∧
      ∀ n : BitVec 6, n.toNat < s.cfg.seqLen.toNat → seqEntry s n = seqEntry s' n
  | .mRandomSoft =>
    s.cfg.interval = s'.cfg.interval ∧ flagStartPresent s.cfg.flags = flagStartPresent s'.cfg.flags ∧
      s.cfg.startColor = s'.cfg.startColor
  | .mRandom =>
    s.cfg.interval = s'.cfg.interval ∧ flagIntPresent s.cfg.flags = flagIntPresent s'.cfg.flags ∧
      s.cfg.intLen = s'.cfg.intLen ∧ ∀ n : BitVec 6, n.toNat < s.cfg.intLen.toNat → intEntry s n = intEntry s' n
  | .mChaos => True
  | .mRegular => s.cfg.interval = s'.cfg.interval ∧ s.cfg.rgb = s'.cfg.rgb
  | .nop | .configure | .start | .cancel | .clrerr | .chwrite _ _ | .todutyR | .todutyG | .todutyB => True

/-! ### The states the rules of spec 41 and 42 lead to, written out -/

/-- `CMD_ERR <- 1` and nothing else (R204). -/
def withCmdErr (s : State) : State := { s with status := { s.status with cmdErr := true } }

/-- `CONFIGURE` has failed with a code (R112, R201). -/
def configFailed (code : CfgErr) (s : State) : State :=
  { s with status := { s.status with state := .configError, cfgErr := code, mode := 0, modeValid := false } }

/-- `CONFIGURE` has resolved a mode (R112). -/
def configReady (mode : BitVec 3) (s : State) : State :=
  { s with status := { s.status with state := .ready, cfgErr := .none, mode := mode, modeValid := true } }

/-- The run is over (R136): `MODE`, `MODE_VALID`, `FC`, `I_SEQ`, `I_INT`, `S`, `T` and `CUR_COLOR` keep their values. -/
def runOver (st : RunState) (s : State) : State :=
  { s with
    status := { s.status with state := st }
    eng := { s.eng with
      stop := false, dlyActive := false, dly := 0, act := [], dl := [], q := 0, phase := .idle, p := 0 }
    port := { s.port with wrReq := false, rndReq := false } }

/-- The frame's draws are requested (R131). -/
def drawsRequested (dl : List Nat) (s : State) : State :=
  { s with
    eng := { s.eng with dl := dl, q := 0, dv := Vector.replicate 6 0, phase := .draw, p := 0 }
    port := { s.port with rndReq := true } }

/-- A frame without draws is at its `Build` (R131). -/
def noDraws (s : State) : State := { s with eng := { s.eng with dl := [], q := 0, dv := Vector.replicate 6 0 } }

/-- The frame is built (R132). -/
def frameBuilt (act : List Action) (src tgt : Color) (s : State) : State :=
  { s with eng := { s.eng with act := act, src := src, tgt := tgt, p := 0, phase := .issue } }

/-- The frame has ended with these committed values (R135). -/
def frameEnded (src : Color) (iSeq iInt : BitVec 6) (s : State) : State :=
  if s.eng.fc = 0 then
    runOver .done { s with eng := { s.eng with src := src, iSeq := iSeq, iInt := iInt, first := false } }
  else
    { s with eng := { s.eng with
        src := src, iSeq := iSeq, iInt := iInt, first := false, fc := s.eng.fc - 1, phase := .begin, p := 0 } }

/-- Is this CMD word rejected in this state (R110)? -/
def cmdRejected (w : Word) (st : RunState) : Prop :=
  4 < w.toNat ∨ (w = 1 ∧ st = .running) ∨ (w = 2 ∧ st ∉ [RunState.ready, .done, .cancelled, .busError])

/-! ### Host accesses -/

/-- The step of a host write. -/
def hostWriteStep (a : BitVec 12) (v : Word) (s : State) : Result := stepEvent (.host ⟨true, false, a, v, .word⟩) s

/-- Would this CMD word begin a run before the DRIVER's `setup()` has completed (R14, R182, U8)? -/
def runBeforeSetup (w : Word) (s : State) : Prop :=
  w = 2 ∧ s.status.state ∈ [RunState.ready, .done, .cancelled, .busError] ∧ s.drv.ready = false

/-- The step of a host read. -/
def hostReadStep (a : BitVec 12) (s : State) : Result := stepEvent (.host ⟨false, true, a, 0, .word⟩) s

/-- Is this byte one of the four that a write of this register stores (R44)? -/
def storedByte (r : Reg) (b : Nat) : Prop :=
  match r with
  | .seqRam n => 0x100 + 4 * n.toNat ≤ b ∧ b < 0x104 + 4 * n.toNat
  | .intRam n => 0x200 + 4 * n.toNat ≤ b ∧ b < 0x204 + 4 * n.toNat
  | .cmd | .status | .flags | .channels | .rgb | .startColor | .interval | .frameCount | .seqLen | .intLen
  | .frameRemain | .seqIndex | .intIndex | .curColor | .convIn | .convR | .convG | .convB | .caps => False

/-! ### Invariants -/

/-- The position, the ports and the run state agree (R45, R50 (b) to (d), R170, R175, R29). -/
structure PhaseInv (s : State) : Prop where
  idle_iff : s.eng.phase = .idle ↔ s.status.state ≠ .running
  wrReq_iff : s.port.wrReq = true ↔ s.eng.phase = .waitWr
  rndReq_iff : s.port.rndReq = true ↔ s.eng.phase = .draw
  dlyActive_iff : s.eng.dlyActive = true ↔ s.eng.phase = .waitTick
  dly_zero_iff : s.eng.dly = 0 ↔ s.eng.phase ≠ .waitTick
  wrOn_zero : s.port.wrOn = 0
  stop_running : s.eng.stop = true → s.status.state = .running

/-- The status bits agree with `STATE`, and a valid mode is what the present configuration resolves to
(R23, R24, R50 (a), R67). -/
structure ModeInv (s : State) : Prop where
  modeValid_eq : s.status.modeValid = stateHasMode s.status.state
  mode_zero : s.status.modeValid = false → s.status.mode = 0
  cfgErr_none_iff : s.status.cfgErr = .none ↔ s.status.state ≠ .configError
  resolved : s.status.modeValid = true → resolve s.cfg = (.none, s.status.mode)

/-- The frame being performed is the one the mode builds for the present configuration and draws: the list, its length,
its draws, and the action the position stands at (R45, R47, R132, R133). -/
structure FrameInv (s : State) : Prop where
  p_le : s.eng.p ≤ s.eng.act.length
  act_le : s.eng.act.length ≤ 1536
  draws_eq : s.eng.phase = .draw → s.eng.dl = drawTable (decodeMode s.status.mode) s ∧ s.eng.q < s.eng.dl.length
  built : performing s.eng.phase = true →
    modeFrame (decodeMode s.status.mode) s = .ok ⟨s.eng.act, s.eng.src, s.eng.tgt⟩
  drawn_lt : s.eng.phase = .draw →
    ∀ k : Fin 6, k.val < s.eng.q → ∀ n, s.eng.dl[k.val]? = some n → s.eng.dv[k].toNat < n
  waitWr_action : s.eng.phase = .waitWr →
    s.eng.act[s.eng.p]? = some (.wr s.eng.wrb.lane s.eng.wrb.value) ∧
    s.port.wrCh = channelOf s.eng.wrb.lane s.cfg.channels ∧ s.port.wrOff = toDuty s.eng.wrb.value
  waitTick_action : s.eng.phase = .waitTick →
    ∃ t : Word, s.eng.act[s.eng.p]? = some (.wt t) ∧ s.eng.dly.toNat ≤ t.toNat
  fc_le : s.status.state = .running → s.eng.fc.toNat ≤ s.cfg.frameCount.toNat

/-- The two indices of a run (R39, R40, R139, R140, R142): below the length they wrap at, and 0 in the other modes. -/
structure IndexInv (s : State) : Prop where
  iSeq_lt : s.status.state = .running → isInOrder (decodeMode s.status.mode) = true →
    s.eng.iSeq.toNat < s.cfg.seqLen.toNat
  iSeq_zero : s.status.state = .running → isInOrder (decodeMode s.status.mode) = false → s.eng.iSeq = 0
  iInt_lt : s.status.state = .running → decodeMode s.status.mode = .mRandom → useInt s = true →
    s.eng.iInt.toNat < s.cfg.intLen.toNat
  iInt_zero : s.status.state = .running → ¬ (decodeMode s.status.mode = .mRandom ∧ useInt s = true) → s.eng.iInt = 0

/-- Every listed byte lies in one of the two windows (R61). -/
def memInWindows (m : List Host.Cell) : Prop := ∀ c ∈ m, 0x100 ≤ c.1 ∧ c.1 < 0x300

/-- The invariants together. -/
structure PabInv (s : State) : Prop where
  phase : PhaseInv s
  mode : ModeInv s
  frame : FrameInv s
  index : IndexInv s
  mem : Memory.wf s.mem = true
  windows : memInWindows s.mem
  /-- No run goes on before `setup()` has completed (R14, R177, R182). -/
  driverReady : s.status.state = .running → s.drv.ready = true

/-! ### Schedules -/

/-- The steps that perform one action when every write is answered `ok` (R133, R134). -/
def actionEvents : Action → List Event
  | .wr _ _ => [.engine, .driver false]
  | .wt t => .engine :: List.replicate t.toNat .tick

/-- The steps that perform a list of actions and end in END. -/
def performEvents (acts : List Action) : List Event := acts.flatMap actionEvents ++ [.engine]

/-- The trace entry of an action performed on these CHANNELS (R12, R171). -/
def actionTrace (channels : BitVec 12) : Action → TraceItem
  | .wr x v => .write (channelOf x channels) 0 (toDuty v) true
  | .wt t => .wait t

/-- `CUR_COLOR` after a list of actions performed with every write `ok` (R41). -/
def colorAfter (acts : List Action) (c : Color) : Color :=
  acts.foldl (fun c a => match a with | .wr x v => setLane x v c | .wt _ => c) c

/-- The actions of one blink of the Regular mode (R144). -/
def blink (c : Color) (t : Word) : List Action :=
  [.wr .r c.r, .wr .g c.g, .wr .b c.b, .wt t, .wr .r 0, .wr .g 0, .wr .b 0, .wt t]

/-- The steps of `n` frames with the same actions: begin, perform, end. -/
def framesEvents (acts : List Action) : Nat → List Event
  | 0 => []
  | n + 1 => .engine :: performEvents acts ++ .engine :: framesEvents acts n

end Sys2Proof.Safety
end

