-- ==== Sys2Proof/Certificates/Slice0/Obligations.lean ====
section
/-! DEFINITION. The statements for the provers, from the numbered rules of spec/. Each docstring names the rules it formalises;
OBLIGATIONS.json holds its title, its tier and the spec's words. A conclusion `= .next t` with a whole state `t` says the
frame as well: every part of the state it does not name is as before, every byte of memory included. -/

open Sys2Proof Sys2Proof.Machine Sys2Proof.Safety

/-! ### Encoding and fetching -/

/-- R83, R84, R88, R103: words of each format, written out from the spec's tables, and what they decode to. The packing of
the OUT triple (channel [27:24], on count [23:12], off count [11:0]) and the rejection of a nonzero on count by name are
the model's choice (log 9). -/
def Obligations.DecodedWordsOfTheTables : Prop :=
  decode .cmd 0x00000000 = .ok .nop ∧ decode .cmd 0x00000001 = .ok .configure ∧
  decode .cmd 0x00000004 = .ok .clrerr ∧ decode .cmd 0x00000005 = .error .reservedOpcode ∧
  decode .cmd 0x00000012 = .error .reservedBits ∧
  decode .mode 0b010 = .ok .mSeqSoft ∧ decode .mode 0b111 = .ok .mRegular ∧
  decode .duty 0x040 = .ok .todutyG ∧ decode .duty 0x048 = .error .notConverter ∧
  decode .out 0x030007F7 = .ok (.chwrite 3 2039) ∧ decode .out 0x030017F7 = .error .onNotZero

/-- Decoding the encoding of any well-formed operation gives it back, at every value of its operands. The packing of an OUT
triple in a word is the model's choice (log 9). -/
def Obligations.DecodeOfEncode : Prop :=
  ∀ i : Instr, i.wellFormed = true → decode (encode i).1 (encode i).2 = .ok i

/-- Every word that decodes is the encoding of what it decodes to, but for the bits its format has no field for, and an OUT
triple is packed in a word (both log 9). -/
def Obligations.EncodeOfDecode : Prop :=
  ∀ (f : Format) (w : Word) (i : Instr), decode f w = .ok i → encode i = (f, w &&& f.mask) ∧ i.wellFormed = true

/-- R7, R64, R103, R131, R133, R132, R135: a step is the step of the agent the tape names (the ENGINE's own when the
tape is empty, log 1), and runs the operation standing where that agent fetches it: the CMD word, the converter read, the
mode code at a frame's begin, end and last draw (log 8), the write action at `p` (its lane and value latched by the ENGINE
before the CHWRITE, which latches channel and count alone: log 17). The one CMD word with no step is a `START` of a run
before `setup()` (R14, U8; StartBeforeSetupIsRefused, log 15). -/
def Obligations.StepRunsTheFetchedOperation : Prop :=
  (∀ s : State, step s = stepEvent (nextEvent s) (popped s)) ∧
  (∀ (s : State) (w : Word) (i : Instr), decode .cmd w = .ok i → ¬ runBeforeSetup w s →
    hostWriteStep 0x000 w s = exec i s) ∧
  (∀ (s : State) (a : BitVec 12) (i : Instr), decode .duty (a.setWidth 32) = .ok i → hostReadStep a s = exec i s) ∧
  (∀ s : State, s.status.state = .running → (s.eng.phase = .begin ∨ s.eng.phase = .finish) →
    stepEvent .engine s = exec (decodeMode s.status.mode) s) ∧
  (∀ (s : State) (w : Word) (n : Nat), s.eng.phase = .draw → s.port.rndReq = true → s.eng.dl[s.eng.q]? = some n →
    n ≠ 0 → s.eng.q + 1 = s.eng.dl.length →
    stepEvent (.random w) s = exec (decodeMode s.status.mode) (fillDraw (BitVec.ofNat 32 (w.toNat % n)) s)) ∧
  (∀ (s : State) (x : Lane) (v : Byte), s.status.state = .running → s.eng.phase = .issue →
    s.eng.act[s.eng.p]? = some (.wr x v) →
    stepEvent .engine s = exec (.chwrite (channelOf x s.cfg.channels) (toDuty v)) (latchWrite x v s))

/-! ### The converter (spec 40) -/

/-- R100, R101: on every integer `toDuty` is the integer form, both of its shapes agree, and it is the nearest integer to
the source's exact quotient (no tie can arise). -/
def Obligations.ToDutyIsTheExactRounding : Prop :=
  ∀ c : Int,
    let k : Nat := (255 - (min (max c 0) 255)).toNat
    let d : Nat := (toDutyInt c).toNat
    d = (4095 * k + 127) / 255 ∧ d = 16 * k + (k + 8) / 17 ∧
    2 * 255 * d < 2 * (4095 * k) + 255 ∧ 2 * (4095 * k) < 2 * 255 * d + 255

/-- R102: the laws (a) to (d) over 0..255. -/
def Obligations.ToDutyLaws : Prop :=
  (∀ c : Nat, c ≤ 255 → (4095 * (255 - c) + 127) / 255 ≤ 4095) ∧
  (∀ c : Nat, c ≤ 254 →
    (toDutyInt (c + 1 : Nat)).toNat + 16 = (toDutyInt c).toNat ∨
    (toDutyInt (c + 1 : Nat)).toNat + 17 = (toDutyInt c).toNat) ∧
  toDutyInt 0 = 4095 ∧ toDutyInt 255 = 0 ∧
  (∀ c c' : Nat, c ≤ 255 → c' ≤ 255 → toDutyInt c = toDutyInt c' → c = c')

/-- R103, R42: each converter operation answers the duty of its own lane of `CONV_IN`, zero-extended, and changes nothing
but `h_rdata` (log 7). -/
def Obligations.ConverterReads : Prop :=
  (∀ s : State, exec .todutyR s =
    .next { s with port := { s.port with hRdata := (toDutyInt s.convIn.r.toNat).setWidth 32 } }) ∧
  (∀ s : State, exec .todutyG s =
    .next { s with port := { s.port with hRdata := (toDutyInt s.convIn.g.toNat).setWidth 32 } }) ∧
  (∀ s : State, exec .todutyB s =
    .next { s with port := { s.port with hRdata := (toDutyInt s.convIn.b.toNat).setWidth 32 } })

/-- R42, R64, R104: a write of `CONV_IN` is taken in every `STATE` and changes nothing else, the converter registers then
read the duties of the lanes just written, and no step but such a write and a reset changes `CONV_IN`. -/
def Obligations.ConverterFollowsConvIn : Prop :=
  (∀ (s : State) (v : Word),
    let t := { s with convIn := ⟨v.extractLsb' 0 8, v.extractLsb' 8 8, v.extractLsb' 16 8⟩ }
    hostWriteStep 0x038 v s = .next t ∧
    memRead 0x038 t = v &&& 0x00FFFFFF ∧
    memRead 0x03C t = (toDuty (v.extractLsb' 0 8)).setWidth 32 ∧
    memRead 0x040 t = (toDuty (v.extractLsb' 8 8)).setWidth 32 ∧
    memRead 0x044 t = (toDuty (v.extractLsb' 16 8)).setWidth 32) ∧
  (∀ s t : State, step s = .next t → t.convIn ≠ s.convIn →
    nextEvent s = .reset ∨ ∃ (rd : Bool) (v : Word), nextEvent s = .host ⟨true, rd, 0x038, v, .word⟩)

/-! ### Host accesses (spec 20, spec 10) -/

/-- R63, R20, R30 to R44: a read changes nothing but `h_rdata` (log 7) and answers the register's value with its reserved
bits 0; the memories answer the bytes they hold (log 4). -/
def Obligations.ReadsAnswerAndChangeNothing : Prop :=
  (∀ (s : State) (a : BitVec 12),
    hostReadStep a s = .next { s with port := { s.port with hRdata := memRead a s } }) ∧
  (∀ s : State,
    memRead 0x008 s = s.cfg.flags.setWidth 32 ∧ memRead 0x00C s = s.cfg.channels.setWidth 32 ∧
    memRead 0x010 s = 0#8 ++ s.cfg.rgb.b ++ s.cfg.rgb.g ++ s.cfg.rgb.r ∧
    memRead 0x014 s = 0#8 ++ s.cfg.startColor.b ++ s.cfg.startColor.g ++ s.cfg.startColor.r ∧
    memRead 0x018 s = s.cfg.interval ∧ memRead 0x01C s = s.cfg.frameCount.setWidth 32 ∧
    memRead 0x020 s = s.cfg.seqLen.setWidth 32 ∧ memRead 0x024 s = s.cfg.intLen.setWidth 32 ∧
    memRead 0x028 s = s.eng.fc.setWidth 32 ∧ memRead 0x02C s = s.eng.iSeq.setWidth 32 ∧
    memRead 0x030 s = s.eng.iInt.setWidth 32 ∧
    memRead 0x034 s = 0#8 ++ s.curColor.b ++ s.curColor.g ++ s.curColor.r ∧
    memRead 0x048 s = 0x03E84040) ∧
  (∀ (s : State) (n : BitVec 6),
    memRead (1#4 ++ n ++ 0#2) s =
      0#8 ++ readByte s (0x102 + 4 * n.toNat) ++ readByte s (0x101 + 4 * n.toNat) ++ readByte s (0x100 + 4 * n.toNat) ∧
    memRead (2#4 ++ n ++ 0#2) s =
      readByte s (0x203 + 4 * n.toNat) ++ readByte s (0x202 + 4 * n.toNat) ++
        readByte s (0x201 + 4 * n.toNat) ++ readByte s (0x200 + 4 * n.toNat))

/-- R22 to R29: every field of the `STATUS` word. -/
def Obligations.StatusWordFields : Prop :=
  ∀ s : State,
    let w := memRead 0x004 s
    (w.extractLsb' 0 3).toNat =
      (match s.status.state with
        | .unconfigured => 0 | .ready => 1 | .running => 2 | .done => 3 | .cancelled => 4 | .busError => 5
        | .configError => 6) ∧
    w.getLsbD 3 = false ∧ w.extractLsb' 4 3 = s.status.mode ∧ w.getLsbD 7 = s.status.modeValid ∧
    (w.extractLsb' 8 4).toNat =
      (match s.status.cfgErr with
        | .none => 0 | .noMode => 1 | .emptySequence => 2 | .seqMalformed => 3 | .channelConflict => 4
        | .chaosSoft => 5 | .intMalformed => 6) ∧
    w.getLsbD 12 = s.status.cmdErr ∧ w.getLsbD 13 = s.status.wrIgnored ∧ w.getLsbD 14 = s.eng.stop ∧
    w.getLsbD 15 = s.port.wrReq ∧ w.getLsbD 16 = s.eng.dlyActive ∧ w.extractLsb' 17 15 = 0

/-- R62, R65, R68: misaligned accesses, reserved offsets and writes to read-only registers change nothing, misaligned
and reserved reads and a read of `CMD` answer 0 on `h_rdata`. -/
def Obligations.MisalignedReservedAndReadOnly : Prop :=
  (∀ (s : State) (a : BitVec 12) (v : Word),
    (a.extractLsb' 0 2 ≠ 0 ∨ (a.extractLsb' 0 2 = 0 ∧ (0x04C ≤ a.toNat ∧ a.toNat < 0x100 ∨ 0x300 ≤ a.toNat))) →
    hostWriteStep a v s = .next s ∧
    hostReadStep a s = .next { s with port := { s.port with hRdata := 0 } }) ∧
  (∀ (s : State) (v : Word), ∀ a ∈ [0x004#12, 0x028, 0x02C, 0x030, 0x034, 0x03C, 0x040, 0x044, 0x048],
    hostWriteStep a v s = .next s) ∧
  (∀ s : State, hostReadStep 0x000 s = .next { s with port := { s.port with hRdata := 0 } })

/-- R64, R67, R44: outside `RUNNING` a write to a configuration register or window entry takes `v AND WMASK`, whether or
not the value changes, invalidates the configuration, and leaves every other register, the sticky bits, the engine, the
ports and every byte outside the entry's own four as they were. -/
def Obligations.ConfigurationWriteIsTakenAndInvalidates : Prop :=
  (∀ (s : State) (r : Reg) (v : Word), regAccess r = .cfg → s.status.state ≠ .running →
    ∃ t, hostWriteStep (regOffset r) v s = .next t ∧
      readReg r t = v &&& writeMask r ∧
      (∀ r', r' ≠ r → r' ≠ .status → readReg r' t = readReg r' s) ∧
      t.status = { s.status with state := .unconfigured, mode := 0, modeValid := false, cfgErr := .none } ∧
      t.eng = s.eng ∧ t.port = s.port ∧ t.curColor = s.curColor ∧ t.convIn = s.convIn ∧ t.trace = s.trace ∧
      t.tape = s.tape ∧ t.resets = s.resets ∧ t.drv = s.drv ∧
      ∀ b : Nat, ¬ storedByte r b → readByte t b = readByte s b) ∧
  writeMask .flags = 0x000000FF ∧ writeMask .channels = 0x00000FFF ∧ writeMask .rgb = 0x00FFFFFF ∧
  writeMask .startColor = 0x00FFFFFF ∧ writeMask .interval = 0xFFFFFFFF ∧ writeMask .frameCount = 0x0000FFFF ∧
  writeMask .seqLen = 0x0000007F ∧ writeMask .intLen = 0x0000007F ∧
  (∀ n, writeMask (.seqRam n) = 0x00FFFFFF) ∧ (∀ n, writeMask (.intRam n) = 0xFFFFFFFF)

/-- R66, R205: while `RUNNING` such a write changes nothing but `WR_IGNORED`. -/
def Obligations.ConfigurationWriteWhileRunningIsIgnored : Prop :=
  ∀ (s : State) (r : Reg) (v : Word), regAccess r = .cfg → s.status.state = .running →
    hostWriteStep (regOffset r) v s = .next { s with status := { s.status with wrIgnored := true } }

/-- R60, R69: with both strobes set the access is the write alone and `h_rdata` is 0; a byte or half-word access is
refused; with no strobe nothing happens. -/
def Obligations.StrobesAndAccessWidth : Prop :=
  (∀ (s : State) (a : BitVec 12) (v : Word),
    stepEvent (.host ⟨true, true, a, v, .word⟩) s =
      hostWriteStep a v { s with port := { s.port with hRdata := 0 } }) ∧
  (∀ (s : State) (x : HostAccess), x.size ≠ .word → (x.wr = true ∨ x.rd = true) →
    stepEvent (.host x) s = .refused .narrowAccess) ∧
  (∀ (s : State) (x : HostAccess), x.wr = false → x.rd = false → stepEvent (.host x) s = .next s)

/-! ### Commands (spec 41) -/

/-- R110: `ExecuteCommand(w)` for every 32-bit word, where the HOST keeps its duty of R14: no run before `setup()` (what a
word that breaks it does is StartBeforeSetupIsRefused). -/
def Obligations.CommandWordDispatch : Prop :=
  ∀ (s : State) (w : Word), ¬ runBeforeSetup w s →
    hostWriteStep 0x000 w s =
      if 4 < w.toNat then .next (withCmdErr s)
      else if w = 1 ∧ s.status.state = .running then .next (withCmdErr s)
      else if w = 2 ∧ s.status.state ∉ [RunState.ready, .done, .cancelled, .busError] then .next (withCmdErr s)
      else if w = 0 then exec .nop s
      else if w = 1 then exec .configure s
      else if w = 2 then exec .start s
      else if w = 3 then exec .cancel s
      else exec .clrerr s

/-- R111: `NOP` has no effect, in every `STATE`. -/
def Obligations.NopHasNoEffect : Prop := ∀ s : State, exec .nop s = .next s ∧ hostWriteStep 0x000 0x00000000 s = .next s

/-- R122: `CANCEL` sets the stop flag while `RUNNING` and does nothing otherwise. -/
def Obligations.CancelSetsTheStopFlag : Prop :=
  (∀ s : State, s.status.state = .running → exec .cancel s = .next { s with eng := { s.eng with stop := true } }) ∧
  (∀ s : State, s.status.state ≠ .running → exec .cancel s = .next s)

/-- R123: `CLRERR` clears the two sticky flags and nothing else. -/
def Obligations.ClrerrClearsTheStickyFlags : Prop :=
  ∀ s : State, exec .clrerr s = .next { s with status := { s.status with cmdErr := false, wrIgnored := false } }

/-- R121, R204(d): `START` begins a run from frame zero; elsewhere it is rejected. -/
def Obligations.StartBeginsFromFrameZero : Prop :=
  (∀ s : State, s.status.state ∈ [RunState.ready, .done, .cancelled, .busError] →
    ∃ t, exec .start s = .next t ∧ t.status = { s.status with state := .running } ∧
      t.eng = { s.eng with
        fc := s.cfg.frameCount, iSeq := 0, iInt := 0, stop := false, first := true, src := ⟨0, 0, 0⟩, tgt := ⟨0, 0, 0⟩
        act := [], dl := [], q := 0, dly := 0, phase := .begin, p := 0 } ∧
      t.cfg = s.cfg ∧ t.port = s.port ∧ t.curColor = s.curColor ∧ t.convIn = s.convIn ∧ t.mem = s.mem ∧
      t.drv = s.drv ∧ t.tape = s.tape ∧ ∀ b : Nat, readByte t b = readByte s b) ∧
  (∀ s : State, s.status.state ∉ [RunState.ready, .done, .cancelled, .busError] →
    exec .start s = .next (withCmdErr s))

/-- R112 to R116, R118, R119, R206: outside `RUNNING` `CONFIGURE` reports the first failing check, in the order 4, 2, 3,
6, then 5 or 1, and changes nothing but `STATE`, `CFG_ERR`, `MODE` and `MODE_VALID`; in `RUNNING` it is rejected. -/
def Obligations.ConfigureReportsTheFirstFailure : Prop :=
  (∀ s : State, s.status.state = .running → exec .configure s = .next (withCmdErr s)) ∧
  ∀ s : State, s.status.state ≠ .running →
    let r := s.cfg.channels.extractLsb' 0 4
    let g := s.cfg.channels.extractLsb' 4 4
    let b := s.cfg.channels.extractLsb' 8 4
    let flag (k : Nat) : Prop := s.cfg.flags.getLsbD k = true
    let len := s.cfg.seqLen.toNat
    let lenI := s.cfg.intLen.toNat
    ((r = g ∨ r = b ∨ g = b) → exec .configure s = .next (configFailed .channelConflict s)) ∧
    (r ≠ g → r ≠ b → g ≠ b →
      (flag 4 → len = 0 → exec .configure s = .next (configFailed .emptySequence s)) ∧
      (flag 4 → 64 < len → exec .configure s = .next (configFailed .seqMalformed s)) ∧
      ((flag 4 → 1 ≤ len ∧ len ≤ 64) →
        (flag 7 → 64 < lenI → exec .configure s = .next (configFailed .intMalformed s)) ∧
        ((flag 7 → lenI ≤ 64) → ¬ flag 4 → ¬ flag 2 →
          (flag 3 → flag 0 → exec .configure s = .next (configFailed .chaosSoft s)) ∧
          (¬ flag 3 → ¬ flag 5 → exec .configure s = .next (configFailed .noMode s)))))

/-- R117, R84: with every check passed, `CONFIGURE` resolves the first match of the source's cascade and changes nothing but
`STATE`, `CFG_ERR`, `MODE` and `MODE_VALID`. -/
def Obligations.ConfigureResolvesByPriority : Prop :=
  ∀ s : State, s.status.state ≠ .running →
    let r := s.cfg.channels.extractLsb' 0 4
    let g := s.cfg.channels.extractLsb' 4 4
    let b := s.cfg.channels.extractLsb' 8 4
    let flag (k : Nat) : Prop := s.cfg.flags.getLsbD k = true
    r ≠ g → r ≠ b → g ≠ b → (flag 7 → s.cfg.intLen.toNat ≤ 64) →
    (flag 4 → 1 ≤ s.cfg.seqLen.toNat → s.cfg.seqLen.toNat ≤ 64 →
      (flag 1 → flag 0 → exec .configure s = .next (configReady 0 s)) ∧
      (flag 1 → ¬ flag 0 → exec .configure s = .next (configReady 1 s)) ∧
      (¬ flag 1 → flag 0 → exec .configure s = .next (configReady 2 s)) ∧
      (¬ flag 1 → ¬ flag 0 → exec .configure s = .next (configReady 3 s))) ∧
    (¬ flag 4 →
      (flag 2 → flag 0 → exec .configure s = .next (configReady 4 s)) ∧
      (flag 2 → ¬ flag 0 → exec .configure s = .next (configReady 5 s)) ∧
      (¬ flag 2 → flag 3 → ¬ flag 0 → exec .configure s = .next (configReady 6 s)) ∧
      (¬ flag 2 → ¬ flag 3 → flag 5 → exec .configure s = .next (configReady 7 s)))

/-- R124: mode resolution is a pure function of `FLAGS`, `CHANNELS`, `SEQ_LEN` and `INT_LEN`. -/
def Obligations.ResolutionIsPure : Prop :=
  ∀ s s' : State, s.status.state ≠ .running → s'.status.state ≠ .running →
    s.cfg.flags = s'.cfg.flags → s.cfg.channels = s'.cfg.channels → s.cfg.seqLen = s'.cfg.seqLen →
    s.cfg.intLen = s'.cfg.intLen →
    ∃ t t', exec .configure s = .next t ∧ exec .configure s' = .next t' ∧
      t.status.state = t'.status.state ∧ t.status.mode = t'.status.mode ∧ t.status.modeValid = t'.status.modeValid ∧
      t.status.cfgErr = t'.status.cfgErr

/-! ### The frame operations (spec 42). That they act at a frame's begin, last draw and end, and nowhere else, is log 8 -/

/-- R131, R136: the stop flag is read at a frame's begin, by every mode, and ends the run `CANCELLED` before anything else. -/
def Obligations.StopCheckEndsTheRun : Prop :=
  ∀ (i : Instr) (s : State), isMode i = true → s.eng.phase = .begin → s.eng.stop = true →
    exec i s = .next (runOver .cancelled s)

/-- R137 (with R131, R132, R135): `M_SEQ_SOFT_RANDOM`, its draws, its frame and its commit. -/
def Obligations.SeqSoftRandomFrame : Prop :=
  (∀ s : State, s.eng.phase = .begin → s.eng.stop = false →
    exec .mSeqSoftRandom s = .next (drawsRequested
      (if s.eng.first = true then [s.cfg.seqLen.toNat, s.cfg.seqLen.toNat] else [s.cfg.seqLen.toNat]) s)) ∧
  (∀ s : State, s.eng.phase = .draw → s.eng.q = s.eng.dl.length → s.eng.dv[0].toNat < 64 →
    (s.eng.first = true → s.eng.dv[1].toNat < 64) →
    let c0 := seqEntry s (s.eng.dv[0].setWidth 6)
    let c1 := seqEntry s (s.eng.dv[1].setWidth 6)
    exec .mSeqSoftRandom s = .next
      (if s.eng.first = true then frameBuilt (goto c0 c1 s.cfg.interval) c0 c1 s
       else frameBuilt (goto s.eng.src c0 s.cfg.interval) s.eng.src c0 s)) ∧
  (∀ s : State, s.eng.phase = .finish →
    exec .mSeqSoftRandom s = .next (frameEnded s.eng.tgt s.eng.iSeq s.eng.iInt s))

/-- R138 (with R131, R132, R135): `M_SEQ_RANDOM`. -/
def Obligations.SeqRandomFrame : Prop :=
  (∀ s : State, s.eng.phase = .begin → s.eng.stop = false →
    exec .mSeqRandom s = .next (drawsRequested [s.cfg.seqLen.toNat] s)) ∧
  (∀ s : State, s.eng.phase = .draw → s.eng.q = s.eng.dl.length → s.eng.dv[0].toNat < 64 →
    let c := seqEntry s (s.eng.dv[0].setWidth 6)
    exec .mSeqRandom s = .next
      (frameBuilt [.wr .r c.r, .wr .g c.g, .wr .b c.b, .wt s.cfg.interval] s.eng.src s.eng.tgt s)) ∧
  (∀ s : State, s.eng.phase = .finish →
    exec .mSeqRandom s = .next (frameEnded s.eng.src s.eng.iSeq s.eng.iInt s))

/-- R139 (with R131, R132, R135): `M_SEQ_SOFT`, for the lengths 1..64 a `CONFIGURE` accepts. -/
def Obligations.SeqSoftFrame : Prop :=
  (∀ s : State, s.eng.phase = .begin → s.eng.stop = false → 1 ≤ s.cfg.seqLen.toNat → s.cfg.seqLen.toNat ≤ 64 →
    let j := (s.eng.iSeq.toNat + 1) % s.cfg.seqLen.toNat
    let src := seqEntry s s.eng.iSeq
    let tgt := seqEntry s (BitVec.ofNat 6 j)
    exec .mSeqSoft s = .next (frameBuilt (goto src tgt s.cfg.interval) src tgt (noDraws s))) ∧
  (∀ s : State, s.eng.phase = .finish → 1 ≤ s.cfg.seqLen.toNat → s.cfg.seqLen.toNat ≤ 64 →
    exec .mSeqSoft s = .next
      (frameEnded s.eng.src (BitVec.ofNat 6 ((s.eng.iSeq.toNat + 1) % s.cfg.seqLen.toNat)) s.eng.iInt s))

/-- R140 (with R131, R132, R135): `M_SEQUENCE`. -/
def Obligations.SequenceFrame : Prop :=
  (∀ s : State, s.eng.phase = .begin → s.eng.stop = false →
    let c := seqEntry s s.eng.iSeq
    exec .mSequence s = .next
      (frameBuilt [.wr .r c.r, .wr .g c.g, .wr .b c.b, .wt s.cfg.interval] s.eng.src s.eng.tgt (noDraws s))) ∧
  (∀ s : State, s.eng.phase = .finish → 1 ≤ s.cfg.seqLen.toNat → s.cfg.seqLen.toNat ≤ 64 →
    exec .mSequence s = .next
      (frameEnded s.eng.src (BitVec.ofNat 6 ((s.eng.iSeq.toNat + 1) % s.cfg.seqLen.toNat)) s.eng.iInt s))

/-- R141 (with R131, R132, R135): `M_RANDOM_SOFT`, the source from `START_COLOR`, from three draws, or from the last frame. -/
def Obligations.RandomSoftFrame : Prop :=
  (∀ s : State, s.eng.phase = .begin → s.eng.stop = false →
    exec .mRandomSoft s = .next (drawsRequested
      (if s.eng.first = true ∧ s.cfg.flags.getLsbD 6 = false then [256, 256, 256, 256, 256, 256]
       else [256, 256, 256]) s)) ∧
  (∀ s : State, s.eng.phase = .draw → s.eng.q = s.eng.dl.length →
    let c : Color := ⟨s.eng.dv[0].setWidth 8, s.eng.dv[1].setWidth 8, s.eng.dv[2].setWidth 8⟩
    let c' : Color := ⟨s.eng.dv[3].setWidth 8, s.eng.dv[4].setWidth 8, s.eng.dv[5].setWidth 8⟩
    exec .mRandomSoft s = .next
      (if s.eng.first = true ∧ s.cfg.flags.getLsbD 6 = true then
        frameBuilt (goto s.cfg.startColor c s.cfg.interval) s.cfg.startColor c s
       else if s.eng.first = true then frameBuilt (goto c c' s.cfg.interval) c c' s
       else frameBuilt (goto s.eng.src c s.cfg.interval) s.eng.src c s)) ∧
  (∀ s : State, s.eng.phase = .finish →
    exec .mRandomSoft s = .next (frameEnded s.eng.tgt s.eng.iSeq s.eng.iInt s))

/-- R142, R145 (with R131, R132, R135): `M_RANDOM`, the colour, the white flash of `P_FLASH` ticks (any value, log 5), the
colour again and the main delay, and the interval index held across frames, for the lengths a `CONFIGURE` accepts: any
length while `INT_PRESENT` is 0 (R116). -/
def Obligations.RandomFrame : Prop :=
  (∀ s : State, s.eng.phase = .begin → s.eng.stop = false →
    exec .mRandom s = .next (drawsRequested [256, 256, 256] s)) ∧
  (∀ s : State, s.eng.phase = .draw → s.eng.q = s.eng.dl.length →
    let c : Color := ⟨s.eng.dv[0].setWidth 8, s.eng.dv[1].setWidth 8, s.eng.dv[2].setWidth 8⟩
    let d := if s.cfg.flags.getLsbD 7 = true ∧ s.cfg.intLen ≠ 0 then intEntry s s.eng.iInt else s.cfg.interval
    exec .mRandom s = .next
      (frameBuilt
        [.wr .r c.r, .wr .g c.g, .wr .b c.b, .wr .r 255, .wr .g 255, .wr .b 255, .wt Config.pFlash,
         .wr .r c.r, .wr .g c.g, .wr .b c.b, .wt d] s.eng.src s.eng.tgt s)) ∧
  (∀ s : State, s.eng.phase = .finish → (s.cfg.flags.getLsbD 7 = true → s.cfg.intLen.toNat ≤ 64) →
    exec .mRandom s = .next
      (if s.cfg.flags.getLsbD 7 = true ∧ s.cfg.intLen ≠ 0 then
        frameEnded s.eng.src s.eng.iSeq (BitVec.ofNat 6 ((s.eng.iInt.toNat + 1) % s.cfg.intLen.toNat)) s
       else frameEnded s.eng.src s.eng.iSeq s.eng.iInt s))

/-- R143 (with R131, R132, R135): `M_CHAOS`; `INTERVAL` is not read. -/
def Obligations.ChaosFrame : Prop :=
  (∀ s : State, s.eng.phase = .begin → s.eng.stop = false →
    exec .mChaos s = .next (drawsRequested [256, 256, 256, 1000] s)) ∧
  (∀ s : State, s.eng.phase = .draw → s.eng.q = s.eng.dl.length →
    exec .mChaos s = .next
      (frameBuilt
        [.wr .r (s.eng.dv[0].setWidth 8), .wr .g (s.eng.dv[1].setWidth 8), .wr .b (s.eng.dv[2].setWidth 8),
         .wt s.eng.dv[3]] s.eng.src s.eng.tgt s)) ∧
  (∀ s : State, s.eng.phase = .finish →
    exec .mChaos s = .next (frameEnded s.eng.src s.eng.iSeq s.eng.iInt s))

/-- R144 (with R131, R132, R135): `M_REGULAR`, one blink between the fixed colour and black. -/
def Obligations.RegularFrame : Prop :=
  (∀ s : State, s.eng.phase = .begin → s.eng.stop = false →
    exec .mRegular s = .next
      (frameBuilt
        [.wr .r s.cfg.rgb.r, .wr .g s.cfg.rgb.g, .wr .b s.cfg.rgb.b, .wt s.cfg.interval,
         .wr .r 0, .wr .g 0, .wr .b 0, .wt s.cfg.interval] s.eng.src s.eng.tgt (noDraws s))) ∧
  (∀ s : State, s.eng.phase = .finish →
    exec .mRegular s = .next (frameEnded s.eng.src s.eng.iSeq s.eng.iInt s))

/-- R131 to R137, R46, R41: whatever a frame operation does in any phase, it leaves the configuration, every byte of the
memories, `CUR_COLOR`, `CONV_IN`, the mode, `CFG_ERR`, the sticky flags, `WRB`, the write port's buses, `h_rdata` and the
trace as they were. -/
def Obligations.FrameOperationsLeaveTheRest : Prop :=
  ∀ (i : Instr) (s t : State), isMode i = true → exec i s = .next t →
    t.cfg = s.cfg ∧ (∀ b : Nat, readByte t b = readByte s b) ∧ t.mem = s.mem ∧ t.curColor = s.curColor ∧
    t.convIn = s.convIn ∧
    t.status = { s.status with state := t.status.state } ∧ t.eng.wrb = s.eng.wrb ∧
    t.port = { s.port with wrReq := t.port.wrReq, rndReq := t.port.rndReq } ∧
    (t.port.wrReq = true → s.port.wrReq = true) ∧
    t.trace = s.trace ∧ t.tape = s.tape ∧ t.resets = s.resets ∧ t.drv = s.drv

/-- R132, R175: a random answer fills the next draw with `rnd_data mod DL[q]`; the last one also drops `rnd_req`, and the
mode builds from the six results. -/
def Obligations.RandomAnswerFillsTheNextDraw : Prop :=
  (∀ (s : State) (w : Word) (n : Nat), s.eng.phase = .draw → s.port.rndReq = true → s.eng.dl[s.eng.q]? = some n →
    n ≠ 0 → s.eng.q + 1 ≠ s.eng.dl.length →
    stepEvent (.random w) s = .next { s with eng := { s.eng with
      dv := s.eng.dv.setIfInBounds s.eng.q (BitVec.ofNat 32 (w.toNat % n)), q := s.eng.q + 1 } }) ∧
  (∀ (s : State) (w : Word) (n : Nat), s.eng.phase = .draw → s.port.rndReq = true → s.eng.dl[s.eng.q]? = some n →
    n ≠ 0 → s.eng.q + 1 = s.eng.dl.length →
    stepEvent (.random w) s = exec (decodeMode s.status.mode)
      { s with
        eng := { s.eng with
          dv := s.eng.dv.setIfInBounds s.eng.q (BitVec.ofNat 32 (w.toNat % n)), q := s.eng.q + 1 }
        port := { s.port with rndReq := false } })

/-! ### Actions and the ports (spec 42 R133, R134, spec 44) -/

/-- R171, R170, R86: `CHWRITE` drives the transaction on the port, with on count 0, and waits for the answer. That the
operation by itself latches only channel and count in `WRB`, keeps its lane and value, and moves to WAIT_WR from any phase
is the model's choice (log 17). -/
def Obligations.ChwriteDrivesThePort : Prop :=
  ∀ (ch : BitVec 4) (off : BitVec 12) (s : State),
    exec (.chwrite ch off) s = .next { s with
      port := { s.port with wrReq := true, wrCh := ch, wrOn := 0, wrOff := off }
      eng := { s.eng with wrb := { s.eng.wrb with ch := ch, off := off }, phase := .waitWr } }

/-- R133 `Issue`, R134 `StartWait`, R171: the ENGINE's step at each kind of action and at the end of the list. A wait of 0
ticks is completed at once and stands in the trace (log 12). -/
def Obligations.IssueStep : Prop :=
  (∀ s : State, s.status.state = .running → s.eng.phase = .issue → s.eng.p = s.eng.act.length →
    stepEvent .engine s = .next { s with eng := { s.eng with phase := .finish } }) ∧
  (∀ (s : State) (x : Lane) (v : Byte), s.status.state = .running → s.eng.phase = .issue →
    s.eng.act[s.eng.p]? = some (.wr x v) →
    let ch := match x with
      | .r => s.cfg.channels.extractLsb' 0 4
      | .g => s.cfg.channels.extractLsb' 4 4
      | .b => s.cfg.channels.extractLsb' 8 4
    stepEvent .engine s = .next { s with
      port := { s.port with wrReq := true, wrCh := ch, wrOn := 0, wrOff := toDuty v }
      eng := { s.eng with wrb := ⟨x, v, ch, toDuty v⟩, phase := .waitWr } }) ∧
  (∀ (s : State) (n : Word), s.status.state = .running → s.eng.phase = .issue →
    s.eng.act[s.eng.p]? = some (.wt n) → n ≠ 0 →
    stepEvent .engine s = .next { s with eng := { s.eng with dly := n, dlyActive := true, phase := .waitTick } }) ∧
  (∀ s : State, s.status.state = .running → s.eng.phase = .issue → s.eng.act[s.eng.p]? = some (.wt 0) →
    stepEvent .engine s = .next { s with
      eng := { s.eng with phase := .issue, p := s.eng.p + 1 }, trace := s.trace ++ [.wait 0] })

/-- R133 `Respond`, R172, R202, R203: an `ok` answer updates the lane's `CUR_COLOR` and moves to the next action; a
`fail` answer ends the run with `BUS_ERROR`, `MODE`, `FRAME_REMAIN`, the indices and `CUR_COLOR` kept. The DRIVER is set up,
as in every run (the invariant `driverReady`). -/
def Obligations.DriverAnswer : Prop :=
  ∀ s : State, s.eng.phase = .waitWr → s.port.wrReq = true → s.drv.ready = true →
    (∃ t, stepEvent (.driver false) s = .next t ∧
      t.eng = { s.eng with phase := .issue, p := s.eng.p + 1 } ∧ t.port = { s.port with wrReq := false } ∧
      t.status = s.status ∧ t.cfg = s.cfg ∧ t.mem = s.mem ∧ t.convIn = s.convIn ∧ t.tape = s.tape ∧
      t.curColor = (match s.eng.wrb.lane with
        | .r => { s.curColor with r := s.eng.wrb.value }
        | .g => { s.curColor with g := s.eng.wrb.value }
        | .b => { s.curColor with b := s.eng.wrb.value }) ∧
      t.trace = s.trace ++ [.write s.port.wrCh s.port.wrOn s.port.wrOff true]) ∧
    (∃ t, stepEvent (.driver true) s = .next t ∧
      t.eng = (runOver .busError s).eng ∧ t.port = { s.port with wrReq := false, rndReq := false } ∧
      t.status = { s.status with state := .busError } ∧ t.cfg = s.cfg ∧ t.mem = s.mem ∧ t.convIn = s.convIn ∧
      t.tape = s.tape ∧ t.curColor = s.curColor ∧
      t.trace = s.trace ++ [.write s.port.wrCh s.port.wrOn s.port.wrOff false])

/-- R170, R174, R175: `wr_done` outside a request, a tick outside a wait and `rnd_ack` outside a request do nothing. -/
def Obligations.InputsOutsideTheirPhaseAreIgnored : Prop :=
  (∀ (s : State) (f : Bool), (s.eng.phase ≠ .waitWr ∨ s.port.wrReq = false) → stepEvent (.driver f) s = .next s) ∧
  (∀ s : State, s.eng.phase ≠ .waitTick → stepEvent .tick s = .next s) ∧
  (∀ (s : State) (w : Word), (s.eng.phase ≠ .draw ∨ s.port.rndReq = false) → stepEvent (.random w) s = .next s)

/-- R134, R212(a): a wait with `n` ticks left is still waiting, with `n - m` left, after `m < n` pulses, and ends with the
`n`-th: the position moves on and nothing but the engine and the trace has changed. -/
def Obligations.WaitLastsItsTicks : Prop :=
  ∀ (s : State) (n : Nat) (rest : List Event), s.eng.phase = .waitTick → s.eng.dly.toNat = n → n ≠ 0 →
    s.tape = List.replicate n .tick ++ rest →
    (∀ m < n, runSteps m s = .next { s with
      tape := List.replicate (n - m) .tick ++ rest, eng := { s.eng with dly := BitVec.ofNat 32 (n - m) } }) ∧
    runSteps n s = .next { s with
      tape := rest
      eng := { s.eng with dly := 0, dlyActive := false, phase := .issue, p := s.eng.p + 1 }
      trace := s.trace ++ [.wait (currentWait s)] }

/-- R206, R230: the inputs sampled at one clock edge act in the order reset (which discards the rest), host, driver, tick,
random, engine, each input that is absent left out; in which edges the ENGINE's own step falls is an input (log 1). A `CANCEL` at the edge of a failing answer leaves `BUS_ERROR` with `STOP` cleared, and a configuration
write at that edge is still ignored (the edge's steps stand first on the tape, log 1). -/
def Obligations.OneClockEdge : Prop :=
  (∀ (s : State) (e : Edge), e.rst = true → offerEdge e s = { s with tape := .reset :: s.tape }) ∧
  (∀ (s : State) (e : Edge), e.rst = false →
    offerEdge e s = { s with tape :=
      (match e.host with | some a => [.host a] | none => []) ++
      (match e.wrDone with | some f => [.driver f] | none => []) ++
      (if e.tick = true then [.tick] else []) ++
      (match e.rndData with | some w => [.random w] | none => []) ++
      (if e.engine = true then [.engine] else []) ++ s.tape }) ∧
  (∀ (s : State) (b : Bool), s.status.state = .running → s.eng.phase = .waitWr → s.port.wrReq = true →
    s.drv.ready = true →
    ∃ t, runSteps (if b then 3 else 2)
        (offerEdge ⟨false, some ⟨true, false, 0x000, 3, .word⟩, some true, false, none, b⟩ s) = .next t ∧
      t.status = { s.status with state := .busError } ∧ t.eng.stop = false ∧ t.eng.phase = .idle ∧ t.tape = s.tape) ∧
  (∀ (s : State) (b : Bool) (r : Reg) (v : Word), s.status.state = .running → s.eng.phase = .waitWr →
    s.port.wrReq = true → s.drv.ready = true → regAccess r = .cfg →
    ∃ t, runSteps (if b then 3 else 2)
        (offerEdge ⟨false, some ⟨true, false, regOffset r, v, .word⟩, some true, false, none, b⟩ s) = .next t ∧
      t.status = { s.status with state := .busError, wrIgnored := true } ∧ t.cfg = s.cfg ∧ t.mem = s.mem ∧
      t.tape = s.tape)

/-! ### Transitions (spec 43) -/

/-- R161: for `a ≠ b` the `k`-th of `|b − a| + 1` writes of a ramp carries `a` moved `k` units toward `b`, each is followed by
the interval, both ends are included; for `a = b` the ramp is empty. -/
def Obligations.RampStepsByOne : Prop :=
  ∀ (x : Lane) (a b : Byte) (t : Word),
    (a = b → ramp x a b t = []) ∧
    (a ≠ b →
      let n := max a.toNat b.toNat - min a.toNat b.toNat + 1
      (ramp x a b t).length = 2 * n ∧
      ∀ k < n,
        (ramp x a b t)[2 * k]? =
          some (.wr x (BitVec.ofNat 8 (if a.toNat < b.toNat then a.toNat + k else a.toNat - k))) ∧
        (ramp x a b t)[2 * k + 1]? = some (.wt t))

/-- R160, R162: `SETCOLOR` writes all three lanes in the order red, green, blue; `GOTO` is the three ramps one after the
other, empty between equal colours, and writes no lane whose value does not change. -/
def Obligations.SetColorAndGoto : Prop :=
  (∀ c : Color, setColor c = [.wr .r c.r, .wr .g c.g, .wr .b c.b]) ∧
  (∀ (s t : Color) (i : Word),
    goto s t i = ramp .r s.r t.r i ++ ramp .g s.g t.g i ++ ramp .b s.b t.b i ∧ goto s s i = [] ∧
    (∀ v : Byte, s.r = t.r → .wr .r v ∉ goto s t i) ∧ (∀ v : Byte, s.g = t.g → .wr .g v ∉ goto s t i) ∧
    (∀ v : Byte, s.b = t.b → .wr .b v ∉ goto s t i))

/-- R163: the counts of a crossfade, the interval waited once for every write, and the steps of a lane's values and duties. -/
def Obligations.CrossfadeCounts : Prop :=
  (∀ (s t : Color) (i : Word),
    let lane (a b : Byte) : Nat := if a = b then 0 else max a.toNat b.toNat - min a.toNat b.toNat + 1
    let w := lane s.r t.r + lane s.g t.g + lane s.b t.b
    (goto s t i).length = 2 * w ∧ w ≤ 768 ∧
    ((goto s t i).map fun | .wt n => n.toNat | .wr _ _ => 0).sum = w * i.toNat) ∧
  (∀ (x : Lane) (a b : Byte) (t : Word) (k : Nat) (v v' : Byte),
    (ramp x a b t)[2 * k]? = some (.wr x v) → (ramp x a b t)[2 * k + 2]? = some (.wr x v') →
    (a.toNat < b.toNat ∧ v'.toNat = v.toNat + 1 ∧
      ((toDuty v').toNat + 16 = (toDuty v).toNat ∨ (toDuty v').toNat + 17 = (toDuty v).toNat)) ∨
    (b.toNat < a.toNat ∧ v'.toNat + 1 = v.toNat ∧
      ((toDuty v).toNat + 16 = (toDuty v').toNat ∨ (toDuty v).toNat + 17 = (toDuty v').toNat)))

/-! ### Runs -/

/-- R133, R134, R12, R173, R75: from the first action of any list, with every write answered `ok` and every wait given its
ticks, the ENGINE performs exactly that list in its order, never merging, dropping or repeating an action, ends in END, and
`CUR_COLOR` holds the last value of each lane. The steps stand on the tape (log 1), the trace is the field of log 12, and the
last step is the ENGINE's at the end of the list (log 18). The DRIVER is set up, as in every run. -/
def Obligations.PerformingAFrameTracesItsActions : Prop :=
  ∀ (s : State) (rest : List Event), s.status.state = .running → s.eng.phase = .issue → s.eng.p = 0 →
    s.port.wrReq = false → s.drv.ready = true → s.tape = performEvents s.eng.act ++ rest →
    ∃ t, runSteps (performEvents s.eng.act).length s = .next t ∧
      t.eng.phase = .finish ∧ t.eng.p = s.eng.act.length ∧ t.eng.act = s.eng.act ∧
      t.trace = s.trace ++ s.eng.act.map (actionTrace s.cfg.channels) ∧
      t.curColor = colorAfter s.eng.act s.curColor ∧
      t.status = s.status ∧ t.cfg = s.cfg ∧ t.mem = s.mem ∧ t.convIn = s.convIn ∧ t.tape = rest ∧
      t.port.wrReq = false ∧ t.eng.fc = s.eng.fc ∧ t.eng.stop = s.eng.stop ∧ t.eng.first = s.eng.first ∧
      t.eng.src = s.eng.src ∧ t.eng.tgt = s.eng.tgt ∧ t.eng.iSeq = s.eng.iSeq ∧ t.eng.iInt = s.eng.iInt

/-- R130, R144, R251, R38: a Regular run from `START` to its end is exactly `FRAME_COUNT + 1` blinks, waits
`2 · I · (FRAME_COUNT + 1)` ticks, and ends `DONE` on black with `FRAME_REMAIN` 0. The steps stand on the tape (log 1), the
trace is the field of log 12, and each frame's last step is the ENGINE's at the end of the list (log 18). -/
def Obligations.RegularRunIsItsBlinks : Prop :=
  ∀ (s : State) (rest : List Event),
    let n := s.cfg.frameCount.toNat + 1
    let acts := blink s.cfg.rgb s.cfg.interval
    s.status.state = .ready → s.status.mode = 7 → s.port.wrReq = false → s.port.rndReq = false → s.drv.ready = true →
    s.tape = .host ⟨true, false, 0x000, 2, .word⟩ :: framesEvents acts n ++ rest →
    ((framesEvents acts n).count .tick = 2 * s.cfg.interval.toNat * n) ∧
    ∃ t, runSteps (1 + (framesEvents acts n).length) s = .next t ∧
      t.status = { s.status with state := .done } ∧ t.eng.fc = 0 ∧ t.eng.phase = .idle ∧
      t.trace = (List.replicate n (acts.map (actionTrace s.cfg.channels))).flatten ∧
      t.curColor = ⟨0, 0, 0⟩ ∧ t.cfg = s.cfg ∧ t.mem = s.mem ∧ t.tape = rest

/-! ### The whole machine -/

/-- R22 ("entered by"), R136, R206, R14: the only steps that change `STATE`, and to what. -/
def Obligations.StateTransitions : Prop :=
  ∀ s t : State, PabInv s → step s = .next t → t.status.state ≠ s.status.state →
    match t.status.state with
    | .unconfigured => nextEvent s = .reset ∨
        (s.status.state ≠ .running ∧
          ∃ (rd : Bool) (r : Reg) (v : Word), regAccess r = .cfg ∧ nextEvent s = .host ⟨true, rd, regOffset r, v, .word⟩)
    | .ready => s.status.state ≠ .running ∧ (resolve s.cfg).1 = .none ∧
        ∃ rd : Bool, nextEvent s = .host ⟨true, rd, 0x000, 1, .word⟩
    | .configError => s.status.state ≠ .running ∧ (resolve s.cfg).1 ≠ .none ∧
        ∃ rd : Bool, nextEvent s = .host ⟨true, rd, 0x000, 1, .word⟩
    | .running => s.status.state ∈ [RunState.ready, .done, .cancelled, .busError] ∧ s.drv.ready = true ∧
        ∃ rd : Bool, nextEvent s = .host ⟨true, rd, 0x000, 2, .word⟩
    | .done => s.status.state = .running ∧ s.eng.phase = .finish ∧ s.eng.fc = 0 ∧ nextEvent s = .engine
    | .cancelled => s.status.state = .running ∧ s.eng.phase = .begin ∧ s.eng.stop = true ∧ nextEvent s = .engine
    | .busError => s.status.state = .running ∧ s.eng.phase = .waitWr ∧ nextEvent s = .driver true

/-- R25, R26, R204, R205: after a step a sticky bit is 1 exactly when the step was its one event, or it was 1 before
and the step was neither `CLRERR` nor a reset. -/
def Obligations.StickyBits : Prop :=
  ∀ s t : State, step s = .next t →
    let cleared := nextEvent s = .reset ∨ ∃ rd : Bool, nextEvent s = .host ⟨true, rd, 0x000, 4, .word⟩
    (t.status.cmdErr = true ↔
      (∃ (rd : Bool) (w : Word), nextEvent s = .host ⟨true, rd, 0x000, w, .word⟩ ∧ cmdRejected w s.status.state) ∨
      (s.status.cmdErr = true ∧ ¬ cleared)) ∧
    (t.status.wrIgnored = true ↔
      (s.status.state = .running ∧ ∃ (rd : Bool) (r : Reg) (v : Word),
        regAccess r = .cfg ∧ nextEvent s = .host ⟨true, rd, regOffset r, v, .word⟩) ∨
      (s.status.wrIgnored = true ∧ ¬ cleared))

/-- R170, R171, R173: a request rises only for the write action at `p` in phase ISSUE, with that action's channel and duty,
and while it is held the buses do not change. -/
def Obligations.RequestsComeFromWriteActions : Prop :=
  (∀ s t : State, step s = .next t → s.port.wrReq = false → t.port.wrReq = true →
    s.status.state = .running ∧ s.eng.phase = .issue ∧ t.eng.phase = .waitWr ∧
    ∃ (x : Lane) (v : Byte), s.eng.act[s.eng.p]? = some (.wr x v) ∧
      t.port.wrCh = channelOf x s.cfg.channels ∧ t.port.wrOn = 0 ∧ t.port.wrOff = toDuty v) ∧
  (∀ s t : State, PabInv s → step s = .next t → s.port.wrReq = true → t.port.wrReq = true →
    t.port.wrCh = s.port.wrCh ∧ t.port.wrOn = s.port.wrOn ∧ t.port.wrOff = s.port.wrOff)

/-- R230, R231, R170: a reset step in any state, `RUNNING` or not, puts every register, every internal element and every
port to its reset value, the two memories to new free contents (U1, log 3), and a late answer of the abandoned request is
ignored while no new one stands (log 21). Lane R in `WRB` is log 20. The trace stays readable (log 12), and the DRIVER's
side, where no request was abandoned, is as it was (log 13; for an abandoned one see TheChipChangesOnlyByItsAgents). -/
def Obligations.ResetStepFromAnyState : Prop :=
  ∀ (s : State) (rest : List Event), s.tape = .reset :: rest →
    ∃ t, step s = .next t ∧ t.cfg = ⟨0x00, 0x210, ⟨0, 0, 0⟩, ⟨0, 0, 0⟩, 0, 0, 0, 0⟩ ∧
      t.status = ⟨.unconfigured, 0, false, .none, false, false⟩ ∧
      t.eng = ⟨.idle, [], 0, [], Vector.replicate 6 0, 0, ⟨0, 0, 0⟩, ⟨0, 0, 0⟩, false, 0, false, ⟨.r, 0, 0, 0⟩, false,
        0, 0, 0⟩ ∧
      t.port.wrReq = false ∧ t.port.wrCh = 0 ∧ t.port.wrOn = 0 ∧ t.port.wrOff = 0 ∧ t.port.rndReq = false ∧
      t.curColor = ⟨0, 0, 0⟩ ∧ t.convIn = ⟨0, 0, 0⟩ ∧ t.tape = rest ∧
      (∀ b : Nat, readByte t b = Config.ramByte (s.resets + 1) b) ∧ t.trace = s.trace ∧
      t.drv.ready = s.drv.ready ∧ (s.port.wrReq = false → t.drv = s.drv) ∧
      ∀ f : Bool, stepEvent (.driver f) t = .next t

/-- R231, R20, R232: what the host reads after reset, the ENGINE idle, and a `START` rejected. That the lane in `WRB`, whose
reset value the spec gives as 0, is R is the model's choice (log 20). -/
def Obligations.ResetValues : Prop :=
  memRead 0x004 State.reset = 0 ∧ memRead 0x008 State.reset = 0 ∧ memRead 0x00C State.reset = 0x00000210 ∧
  memRead 0x010 State.reset = 0 ∧ memRead 0x014 State.reset = 0 ∧ memRead 0x018 State.reset = 0 ∧
  memRead 0x01C State.reset = 0 ∧ memRead 0x020 State.reset = 0 ∧ memRead 0x024 State.reset = 0 ∧
  memRead 0x028 State.reset = 0 ∧ memRead 0x02C State.reset = 0 ∧ memRead 0x030 State.reset = 0 ∧
  memRead 0x034 State.reset = 0 ∧ memRead 0x038 State.reset = 0 ∧ memRead 0x03C State.reset = 0xFFF ∧
  memRead 0x040 State.reset = 0xFFF ∧ memRead 0x044 State.reset = 0xFFF ∧ memRead 0x048 State.reset = 0x03E84040 ∧
  State.reset.eng.phase = .idle ∧ State.reset.eng.p = 0 ∧ State.reset.eng.act = [] ∧ State.reset.eng.dl = [] ∧
  State.reset.eng.q = 0 ∧ State.reset.eng.dly = 0 ∧ State.reset.eng.dv = Vector.replicate 6 0 ∧
  State.reset.eng.src = ⟨0, 0, 0⟩ ∧ State.reset.eng.tgt = ⟨0, 0, 0⟩ ∧ State.reset.eng.wrb = ⟨.r, 0, 0, 0⟩ ∧
  State.reset.eng.first = false ∧ State.reset.eng.stop = false ∧ State.reset.port.wrReq = false ∧
  State.reset.port.rndReq = false ∧ State.reset.port.wrCh = 0 ∧ State.reset.port.wrOn = 0 ∧
  State.reset.port.wrOff = 0 ∧ hostWriteStep 0x000 2 State.reset = .next (withCmdErr State.reset)

/-- The invariants hold at reset. -/
def Obligations.InvariantsAtReset : Prop := PabInv State.reset

/-- R50, R45, R47, R23, R24, R28, R29, R39, R40: from every state that has the invariants, every step of every agent leads to
one that has them. -/
def Obligations.EveryStepKeepsTheInvariants : Prop := ∀ s t : State, PabInv s → step s = .next t → PabInv t

/-- R14, R60, R69, R147, R178: from every state that has the invariants a step never faults, and it answers a next state
unless the environment breaks one of its duties: a narrow host access, a `START` of a run or `setFrequency` before
`setup()`, `setup()` during a run, `setFrequency` with a prescale that does not fit (logs 10, 15). -/
def Obligations.StepsStopOnlyOnABrokenDuty : Prop :=
  ∀ s : State, PabInv s →
    (∃ t, step s = .next t) ∨
    (∃ a : HostAccess, nextEvent s = .host a ∧ a.size ≠ .word ∧ step s = .refused .narrowAccess) ∨
    (∃ rd : Bool, nextEvent s = .host ⟨true, rd, 0x000, 2, .word⟩ ∧ runBeforeSetup 2 s ∧
      step s = .refused .startBeforeSetup) ∨
    (nextEvent s = .driverSetup ∧ s.status.state = .running ∧ step s = .refused .setupDuringRun) ∨
    (∃ hz : Nat, nextEvent s = .driverSetFrequency hz ∧ s.drv.ready = false ∧ step s = .refused .driverNotReady) ∨
    (∃ hz : Nat, nextEvent s = .driverSetFrequency hz ∧ prescale hz = none ∧ step s = .refused .prescaleRange)

/-- R50 (a) to (e): what every state with the invariants shows, and that while a run goes on no step changes the
configuration it was started with. -/
def Obligations.InvariantsOfR50 : Prop :=
  (∀ s : State, PabInv s →
    (s.status.state = .ready ∨ s.status.state = .running →
      s.cfg.channels.extractLsb' 0 4 ≠ s.cfg.channels.extractLsb' 4 4 ∧
      s.cfg.channels.extractLsb' 0 4 ≠ s.cfg.channels.extractLsb' 8 4 ∧
      s.cfg.channels.extractLsb' 4 4 ≠ s.cfg.channels.extractLsb' 8 4) ∧
    s.port.wrOff.toNat ≤ 4095 ∧ s.port.wrOn = 0 ∧
    (s.eng.phase = .idle ↔ s.status.state ≠ .running) ∧
    ((memRead 0x004 s).getLsbD 15 = true → s.eng.phase = .waitWr) ∧
    ((memRead 0x004 s).getLsbD 16 = true → s.eng.phase = .waitTick)) ∧
  (∀ s t : State, step s = .next t → s.status.state = .running → t.status.state = .running →
    t.cfg = s.cfg ∧ t.mem = s.mem ∧ ∀ b : Nat, readByte t b = readByte s b)

/-- R120, R142, R143: during a run, a step depends only on the configuration its mode reads: two states with the invariants
that agree on it and on status, engine, ports, `CUR_COLOR` and trace do the same in them. -/
def Obligations.RunReadsOnlyItsConfiguration : Prop :=
  ∀ (s s' t : State) (e : Event), PabInv s → PabInv s' → s.status.state = .running →
    (e = .engine ∨ e = .tick ∨ (∃ f, e = .driver f) ∨ ∃ w, e = .random w) →
    s.status = s'.status → s.eng = s'.eng → s.port = s'.port → s.curColor = s'.curColor → s.trace = s'.trace →
    sameReads (decodeMode s.status.mode) s s' → stepEvent e s = .next t →
    ∃ t', stepEvent e s' = .next t' ∧ t.status = t'.status ∧ t.eng = t'.eng ∧ t.port = t'.port ∧
      t.curColor = t'.curColor ∧ t.trace = t'.trace

/-! ### The DRIVER's side of the output port (spec 44 section 2, the environment, log 13) -/

/-- R176, R177, R71: an accepted channel write leaves its four bytes in the channel's four registers and every other register
of the chip as it was, and is the channel's last-programmed pair; on the bus it is four `writeRegister` calls at the chip's
address 0x40, at the offsets `P_BASE_REG + 4 · ch` to `+ 3` (an OPEN base, log 14). That the four writes are done in the
answer step itself is the model's choice (log 22). -/
def Obligations.ChannelWriteBytes : Prop :=
  (∀ (ch : BitVec 4) (on off : BitVec 12),
    let reg (k : Nat) : Byte := Config.pBaseReg + BitVec.ofNat 8 (4 * ch.toNat + k)
    (chWriteOps ch on off).filterMap busTransfer =
      [.writeRegister 0x40 (reg 0) (on.extractLsb' 0 8),
       .writeRegister 0x40 (reg 1) ((on.extractLsb' 8 4).setWidth 8),
       .writeRegister 0x40 (reg 2) (off.extractLsb' 0 8),
       .writeRegister 0x40 (reg 3) ((off.extractLsb' 8 4).setWidth 8)]) ∧
  ∀ s : State, s.drv.ready = true → s.eng.phase = .waitWr → s.port.wrReq = true →
    ∃ t, stepEvent (.driver false) s = .next t ∧
      ledByte t.drv s.port.wrCh 0 = s.port.wrOn.extractLsb' 0 8 ∧
      ledByte t.drv s.port.wrCh 1 = (s.port.wrOn.extractLsb' 8 4).setWidth 8 ∧
      ledByte t.drv s.port.wrCh 2 = s.port.wrOff.extractLsb' 0 8 ∧
      ledByte t.drv s.port.wrCh 3 = (s.port.wrOff.extractLsb' 8 4).setWidth 8 ∧
      (∀ (ch : BitVec 4) (k : BitVec 2), ch ≠ s.port.wrCh → ledByte t.drv ch k = ledByte s.drv ch k) ∧
      t.drv.mode1 = s.drv.mode1 ∧ t.drv.mode2 = s.drv.mode2 ∧ t.drv.preScale = s.drv.preScale ∧
      t.drv.frequency = s.drv.frequency ∧
      ∀ ch : Fin 16, t.drv.pairs[ch] = if ch.val = s.port.wrCh.toNat then (s.port.wrOn, s.port.wrOff) else s.drv.pairs[ch]

/-- R178, R181, R245: `setup()`, the first one and every later one, clears every channel register, sets the two mode bits,
clears the sleep bit, records the default frequency (all OPEN values, log 14), and touches nothing of PAB; during a run,
where R181 says that its `writeAll` is never used, it has no move (log 15). -/
def Obligations.SetupPreparesTheChip : Prop :=
  (∀ s : State, s.status.state = .running → stepEvent .driverSetup s = .refused .setupDuringRun) ∧
  ∀ s : State, s.status.state ≠ .running →
    ∃ t, stepEvent .driverSetup s = .next t ∧ t = { s with drv := t.drv } ∧ t.drv.ready = true ∧
      (∀ (ch : BitVec 4) (k : BitVec 2), ledByte t.drv ch k = 0) ∧
      t.drv.mode2 = s.drv.mode2 ||| Config.mode2OutDrv ∧
      t.drv.mode1 = (s.drv.mode1 ||| Config.mode1AllCall) &&& ~~~Config.mode1Sleep ∧
      t.drv.preScale = s.drv.preScale ∧ t.drv.frequency = Config.defaultFrequency ∧
      ∀ ch : Fin 16, t.drv.pairs[ch] = (0, 0)

/-- R179: `setFrequency(hz)` programs `round(P_OSC_HZ / (4096 · hz)) − 1`, the nearest integer (no tie can arise), leaves
MODE1 as the old value with the restart bit, and records `hz`, in one step (R180; log 15). What the channel registers hold
after the sleep is unknown: they are free values again (U18; log 13). The prescale fits exactly for 24 to 12207 Hz; any other
`hz` is refused (U15), and so is a call before `setup()` (R178; log 15). -/
def Obligations.SetFrequencyProgramsThePrescale : Prop :=
  (∀ hz : Nat, (prescale hz).isSome = true ↔ 24 ≤ hz ∧ hz ≤ 12207) ∧
  (∀ (s : State) (hz : Nat), s.drv.ready = true → ¬ (24 ≤ hz ∧ hz ≤ 12207) →
    stepEvent (.driverSetFrequency hz) s = .refused .prescaleRange) ∧
  (∀ (s : State) (hz : Nat), s.drv.ready = false → stepEvent (.driverSetFrequency hz) s = .refused .driverNotReady) ∧
  (∀ old p : Byte, (setFrequencyOps old p).filterMap busTransfer =
    [.readRegister 0x40 Config.mode1Reg, .writeRegister 0x40 Config.mode1Reg (old ||| Config.mode1Sleep),
     .writeRegister 0x40 Config.preScaleReg p, .writeRegister 0x40 Config.mode1Reg old,
     .writeRegister 0x40 Config.mode1Reg (old ||| Config.mode1Restart)]) ∧
  ∀ (s : State) (hz : Nat) (p : Byte), s.drv.ready = true → prescale hz = some p →
    0 < hz ∧ (2 * p.toNat + 1) * (4096 * hz) < 2 * 25000000 ∧ 2 * 25000000 < (2 * p.toNat + 3) * (4096 * hz) ∧
    stepEvent (.driverSetFrequency hz) s = .next { s with drv := { s.drv with
      preScale := p, mode1 := s.drv.mode1 ||| Config.mode1Restart, frequency := hz, leds := [], sleeps := s.drv.sleeps + 1 } }

/-- R14, R182, R233 (93 U8): the HOST's duty to have `setup()` completed before a run. A `START` that PAB would accept has no
move before it, in each of the four states, and no channel write is answered; after `setup()` the same `START` begins
the run. That the refusal stands in the agents' steps and not in the command is log 15. -/
def Obligations.StartBeforeSetupIsRefused : Prop :=
  (∀ (s : State) (rd : Bool), runBeforeSetup 2 s →
    stepEvent (.host ⟨true, rd, 0x000, 2, .word⟩) s = .refused .startBeforeSetup) ∧
  (∀ (s : State) (f : Bool), s.eng.phase = .waitWr → s.port.wrReq = true → s.drv.ready = false →
    stepEvent (.driver f) s = .refused .driverNotReady) ∧
  (∀ s : State, runBeforeSetup 2 s →
    ∃ t u, stepEvent .driverSetup s = .next t ∧ hostWriteStep 0x000 2 t = .next u ∧
      u.status = { s.status with state := .running } ∧ u.eng.phase = .begin ∧ u.eng.first = true)

/-- R13: a run goes on over a step exactly when the step is not one that ends it: one that sets `DONE`, `CANCELLED` or
`BUS_ERROR`, or a reset; and a run's observation is what the state shows that the ending step leaves (log 12). -/
def Obligations.RunEndsWhereR13Says : Prop :=
  (∀ s t : State, PabInv s → step s = .next t → s.status.state = .running →
    (t.status.state ≠ .running ↔
      t.status.state = .done ∨ t.status.state = .cancelled ∨ t.status.state = .busError ∨ nextEvent s = .reset)) ∧
  (∀ (s t : State) (k : Nat), PabInv s → step s = .next t → s.status.state = .running →
    observeRun (k + 1) s = if t.status.state = .running then observeRun k t else some (observe t))

/-- R217, R173, R245 (93 U9, U10): outside a run PAB never writes the chip, so no step but the DRIVER's own `setup()` and
`setFrequency()` changes it there; a failing answer leaves the failed channel unknown and every other one as it was; and a
reset leaves the chip what it held, but for the first `n` of the four register writes of a request it abandons, done in
their order (R176; log 13, as is what becomes of the channel's last-programmed pair). -/
def Obligations.TheChipChangesOnlyByItsAgents : Prop :=
  (∀ s t : State, PabInv s → step s = .next t → s.status.state ≠ .running → nextEvent s ≠ .driverSetup →
    (∀ hz : Nat, nextEvent s ≠ .driverSetFrequency hz) → t.drv = s.drv) ∧
  (∀ s : State, s.eng.phase = .waitWr → s.port.wrReq = true → s.drv.ready = true →
    ∃ t, stepEvent (.driver true) s = .next t ∧
      (∀ (ch : BitVec 4) (k : BitVec 2), ch ≠ s.port.wrCh → ledByte t.drv ch k = ledByte s.drv ch k) ∧
      (∀ ch : Fin 16, ch.val ≠ s.port.wrCh.toNat → t.drv.pairs[ch] = s.drv.pairs[ch]) ∧
      t.drv.mode1 = s.drv.mode1 ∧ t.drv.mode2 = s.drv.mode2 ∧ t.drv.preScale = s.drv.preScale ∧
      t.drv.frequency = s.drv.frequency ∧ t.drv.ready = s.drv.ready) ∧
  (∀ s : State, s.port.wrReq = false → ∃ t, stepEvent .reset s = .next t ∧ t.drv = s.drv) ∧
  (∀ s : State, s.port.wrReq = true →
    ∃ (t : State) (n : Nat), stepEvent .reset s = .next t ∧ n ≤ 4 ∧
      (∀ k : BitVec 2, ledByte t.drv s.port.wrCh k =
        if k.toNat < n then countByte s.port.wrOn s.port.wrOff k else ledByte s.drv s.port.wrCh k) ∧
      (∀ (ch : BitVec 4) (k : BitVec 2), ch ≠ s.port.wrCh → ledByte t.drv ch k = ledByte s.drv ch k) ∧
      (∀ ch : Fin 16, ch.val ≠ s.port.wrCh.toNat → t.drv.pairs[ch] = s.drv.pairs[ch]) ∧
      (n = 0 → t.drv.pairs = s.drv.pairs) ∧
      (n = 4 → t.drv.pairs = s.drv.pairs.set s.port.wrCh.toNat (s.port.wrOn, s.port.wrOff) s.port.wrCh.isLt) ∧
      t.drv.mode1 = s.drv.mode1 ∧ t.drv.mode2 = s.drv.mode2 ∧ t.drv.preScale = s.drv.preScale ∧
      t.drv.frequency = s.drv.frequency ∧ t.drv.ready = s.drv.ready)
end

