-- ==== Sys2Proof/Laws/Memory.lean ====
section
/-! SUPPORT. The laws of the cell lists that hold the two memories: a read after a write, other addresses untouched, and
the canonical form kept by every operation. -/

namespace Sys2Proof.Laws

open Sys2Proof.Machine

/-- A read of the address just written gives the byte written, at any other address what it gave before. -/
theorem cellLookup_cellSet (m : List Host.Cell) (a b : Nat) (v : Byte) :
    cellLookup (cellSet m a v) b = if b = a then some v else cellLookup m b := by
  induction m with
  | nil => simp [cellSet, cellLookup]
  | cons c m ih =>
    obtain ⟨x, w⟩ := c
    simp only [cellSet]
    split
    · rename_i h
      by_cases hb : b = a
      · simp [cellLookup, hb]
      · simp [cellLookup, hb]
    · split
      · rename_i h₁ h₂
        subst h₂
        by_cases hb : b = a <;> simp [cellLookup, hb]
      · rename_i h₁ h₂
        by_cases hb : b = x
        · subst hb
          have : b ≠ a := fun h => h₂ h.symm
          simp [cellLookup, this]
        · simp [cellLookup, hb, ih]

theorem cellsRiseFrom_mono {lo lo' : Nat} {m : List Host.Cell} (h : lo ≤ lo') (hm : cellsRiseFrom lo' m = true) :
    cellsRiseFrom lo m = true := by
  cases m with
  | nil => rfl
  | cons c m =>
    simp only [cellsRiseFrom, Bool.and_eq_true, decide_eq_true_eq] at hm ⊢
    exact ⟨le_trans h hm.1, hm.2⟩

theorem cellsRiseFrom_cellSet {m : List Host.Cell} {lo a : Nat} (v : Byte) (ha : lo ≤ a)
    (hm : cellsRiseFrom lo m = true) : cellsRiseFrom lo (cellSet m a v) = true := by
  induction m generalizing lo with
  | nil => simp [cellSet, cellsRiseFrom, ha]
  | cons c m ih =>
    obtain ⟨x, w⟩ := c
    simp only [cellsRiseFrom, Bool.and_eq_true, decide_eq_true_eq] at hm
    simp only [cellSet]
    split
    · simp only [cellsRiseFrom, Bool.and_eq_true, decide_eq_true_eq]
      exact ⟨ha, by omega, hm.2⟩
    · split
      · rename_i h
        subst h
        simp only [cellsRiseFrom, Bool.and_eq_true, decide_eq_true_eq]
        exact ⟨ha, hm.2⟩
      · simp only [cellsRiseFrom, Bool.and_eq_true, decide_eq_true_eq]
        exact ⟨hm.1, ih (by omega) hm.2⟩

/-- Storing a byte keeps the canonical form. -/
theorem wf_cellSet {m : List Host.Cell} (a : Nat) (v : Byte) (hm : Memory.wf m = true) :
    Memory.wf (cellSet m a v) = true :=
  cellsRiseFrom_cellSet v (Nat.zero_le a) hm

/-- Storing a word keeps the canonical form. -/
theorem wf_cellSetWord {m : List Host.Cell} (a : Nat) (w : Word) (hm : Memory.wf m = true) :
    Memory.wf (cellSetWord m a w) = true :=
  wf_cellSet _ _ (wf_cellSet _ _ (wf_cellSet _ _ (wf_cellSet _ _ hm)))

/-- The memory after reset has the canonical form. -/
theorem wf_reset : Memory.wf State.reset.mem = true := rfl

/-- Only the written address can be new in the list. -/
theorem mem_cellSet {m : List Host.Cell} {a : Nat} {v : Byte} {c : Host.Cell} (h : c ∈ cellSet m a v) :
    c = (a, v) ∨ c ∈ m := by
  induction m with
  | nil => simpa [cellSet] using h
  | cons d m ih =>
    obtain ⟨x, w⟩ := d
    simp only [cellSet] at h
    split at h
    · simpa using h
    · split at h
      · simp only [List.mem_cons] at h ⊢
        tauto
      · simp only [List.mem_cons] at h ⊢
        rcases h with h | h
        · tauto
        · rcases ih h with h | h <;> tauto

/-- A byte outside the four stored ones is read as before. -/
theorem cellLookup_cellSetWord_other (m : List Host.Cell) (a b : Nat) (w : Word) (h : b < a ∨ a + 4 ≤ b) :
    cellLookup (cellSetWord m a w) b = cellLookup m b := by
  have h0 : b ≠ a := by omega
  have h1 : b ≠ a + 1 := by omega
  have h2 : b ≠ a + 2 := by omega
  have h3 : b ≠ a + 3 := by omega
  simp [cellSetWord, cellLookup_cellSet, h0, h1, h2, h3]

/-- The four bytes of a stored word are read back. -/
theorem cellLookup_cellSetWord_self (m : List Host.Cell) (a : Nat) (w : Word) :
    cellLookup (cellSetWord m a w) a = some (byteOf w 0) ∧
    cellLookup (cellSetWord m a w) (a + 1) = some (byteOf w 1) ∧
    cellLookup (cellSetWord m a w) (a + 2) = some (byteOf w 2) ∧
    cellLookup (cellSetWord m a w) (a + 3) = some (byteOf w 3) := by
  simp [cellSetWord, cellLookup_cellSet]

/-- A stored word is read back. -/
theorem readMemWord_cellSetWord_self (s : State) (a : Nat) (w : Word) :
    readMemWord { s with mem := cellSetWord s.mem a w } a = w := by
  obtain ⟨h0, h1, h2, h3⟩ := cellLookup_cellSetWord_self s.mem a w
  simp only [readMemWord, readByte, h0, h1, h2, h3, Option.getD_some, byteOf]
  ext i hi
  simp only [BitVec.getElem_append, BitVec.getElem_extractLsb']
  split
  · simp [BitVec.getLsbD_eq_getElem, hi]
  · split
    · rw [BitVec.getLsbD_eq_getElem (by omega)]; congr 1; omega
    · split
      · rw [BitVec.getLsbD_eq_getElem (by omega)]; congr 1; omega
      · rw [BitVec.getLsbD_eq_getElem (by omega)]; congr 1; omega

/-- A word at another, disjoint address is read as before. -/
theorem readMemWord_cellSetWord_other (s : State) (a b : Nat) (w : Word) (h : b + 4 ≤ a ∨ a + 4 ≤ b) :
    readMemWord { s with mem := cellSetWord s.mem a w } b = readMemWord s b := by
  simp only [readMemWord, readByte]
  rw [cellLookup_cellSetWord_other _ _ _ _ (by omega), cellLookup_cellSetWord_other _ _ _ _ (by omega),
    cellLookup_cellSetWord_other _ _ _ _ (by omega), cellLookup_cellSetWord_other _ _ _ _ (by omega)]

/-- A byte's reading rests on the memory and the reset count alone. -/
theorem readByte_congr {s t : State} (hm : t.mem = s.mem) (hr : t.resets = s.resets) (a : Nat) :
    readByte t a = readByte s a := by
  simp only [readByte, hm, hr]

end Sys2Proof.Laws
end

