-- ==== Sys2Proof/Laws/Driver.lean ====
section
/-! SUPPORT. The DRIVER's bus operations one at a time: what each leaves in each field, how a list of them runs,
and everything that a failed and an abandoned request change. -/

namespace Sys2Proof.Laws

open Sys2Proof.Machine

@[simp] theorem runBusOps_nil (d : Driver) : runBusOps [] d = d := rfl

@[simp] theorem runBusOps_cons (op : BusOp) (ops : List BusOp) (d : Driver) :
    runBusOps (op :: ops) d = runBusOps ops (applyBusOp d op) := rfl

@[simp] theorem applyBusOp_settle (d : Driver) : applyBusOp d .settle = d := rfl

@[simp] theorem applyBusOp_read (d : Driver) (r : ChipReg) : applyBusOp d (.read r) = d := rfl

@[simp] theorem readChip_mode1 (d : Driver) : readChip d .mode1 = d.mode1 := rfl

@[simp] theorem applyBusOp_mode1 (d : Driver) (v : Byte) : applyBusOp d (.write .mode1 v) = { d with mode1 := v } := rfl

@[simp] theorem applyBusOp_mode2 (d : Driver) (v : Byte) : applyBusOp d (.write .mode2 v) = { d with mode2 := v } := rfl

@[simp] theorem applyBusOp_preScale (d : Driver) (v : Byte) :
    applyBusOp d (.write .preScale v) = { d with preScale := v } := rfl

theorem applyBusOp_led (d : Driver) (ch : BitVec 4) (k : BitVec 2) (v : Byte) :
    applyBusOp d (.write (.led ch k) v) = { d with leds := cellSet d.leds (ledKey ch k) v } := rfl

@[simp] theorem applyBusOp_allLed (d : Driver) (k : BitVec 2) (v : Byte) :
    applyBusOp d (.write (.allLed k) v) =
      { d with leds := allChannels.foldl (fun m ch => cellSet m (ledKey ch k) v) d.leds } := rfl

/-- The eight bus operations of `setup()`. -/
theorem setupOps_eq (m1 m2 : Byte) :
    setupOps m1 m2 =
      [.write (.allLed 0) 0, .write (.allLed 1) 0, .write (.allLed 2) 0, .write (.allLed 3) 0,
       .write .mode2 (m2 ||| Config.mode2OutDrv), .write .mode1 (m1 ||| Config.mode1AllCall), .settle,
       .write .mode1 ((m1 ||| Config.mode1AllCall) &&& ~~~Config.mode1Sleep)] := rfl

/-- Channel registers have distinct keys. -/
theorem ledKey_inj {ch ch' : BitVec 4} {k k' : BitVec 2} (h : ledKey ch k = ledKey ch' k') : ch = ch' ∧ k = k' := by
  unfold ledKey at h
  have := k.isLt
  have := k'.isLt
  exact ⟨BitVec.eq_of_toNat_eq (by omega), BitVec.eq_of_toNat_eq (by omega)⟩

@[simp] theorem recordPair_leds (ch : BitVec 4) (on off : BitVec 12) (d : Driver) :
    (recordPair ch on off d).leds = d.leds := rfl

@[simp] theorem recordPair_ready (ch : BitVec 4) (on off : BitVec 12) (d : Driver) :
    (recordPair ch on off d).ready = d.ready := rfl

/-- A bus operation never changes whether the DRIVER is set up. -/
@[simp] theorem applyBusOp_ready (d : Driver) (op : BusOp) : (applyBusOp d op).ready = d.ready := by
  rcases op with ⟨r, v⟩ | r | _
  · cases r <;> rfl
  · rfl
  · rfl

@[simp] theorem runBusOps_ready (ops : List BusOp) (d : Driver) : (runBusOps ops d).ready = d.ready := by
  induction ops generalizing d with
  | nil => rfl
  | cons op ops ih => rw [runBusOps_cons, ih, applyBusOp_ready]

@[simp] theorem forgetChannel_ready (ch : BitVec 4) (d : Driver) : (forgetChannel ch d).ready = d.ready := by
  simp [forgetChannel]

@[simp] theorem abandonWrite_ready (n : Fin 5) (ch : BitVec 4) (on off : BitVec 12) (d : Driver) :
    (abandonWrite n ch on off d).ready = d.ready := by
  simp [abandonWrite]

@[simp] theorem recordPair_sleeps (ch : BitVec 4) (on off : BitVec 12) (d : Driver) :
    (recordPair ch on off d).sleeps = d.sleeps := rfl

@[simp] theorem ledByte_recordPair (ch : BitVec 4) (on off : BitVec 12) (d : Driver) :
    ledByte (recordPair ch on off d) = ledByte d := rfl

/-- A write of a channel register sets that register and no other. -/
@[simp] theorem ledByte_applyBusOp_led (d : Driver) (ch ch' : BitVec 4) (k k' : BitVec 2) (v : Byte) :
    ledByte (applyBusOp d (.write (.led ch k) v)) ch' k' = if ch' = ch ∧ k' = k then v else ledByte d ch' k' := by
  simp only [ledByte, applyBusOp_led, cellLookup_cellSet]
  by_cases h : ch' = ch ∧ k' = k
  · rw [h.1, h.2]; simp
  · rw [if_neg (fun hk => h (ledKey_inj hk)), if_neg h]

/-- The first `n` writes of a channel's group set the first `n` registers of that channel, and no other register. -/
theorem ledByte_groupWrites (f : BitVec 2 → Byte) (n : Nat) (d : Driver) (ch ch' : BitVec 4) (k : BitVec 2) :
    ledByte (runBusOps ((groupOrder.map fun j => .write (.led ch j) (f j)).take n) d) ch' k =
      if ch' = ch ∧ k.toNat < n then f k else ledByte d ch' k := by
  have hk : k = 0 ∨ k = 1 ∨ k = 2 ∨ k = 3 := by revert k; decide
  match n with
  | 0 => simp
  | 1 | 2 | 3 | n + 4 => by_cases hc : ch' = ch <;> rcases hk with rfl | rfl | rfl | rfl <;> simp [groupOrder, hc]

/-- Writes of a channel's group change the channel registers alone. -/
theorem runBusOps_groupWrites (f : BitVec 2 → Byte) (n : Nat) (d : Driver) (ch : BitVec 4) :
    ∃ l, runBusOps ((groupOrder.map fun j => .write (.led ch j) (f j)).take n) d = { d with leds := l } := by
  match n with
  | 0 | 1 | 2 | 3 => exact ⟨_, rfl⟩
  | n + 4 => rw [List.take_of_length_le (by simp [groupOrder])]; exact ⟨_, rfl⟩

/-- The first `n` register writes of a request set the first `n` registers of its channel, and no other register. -/
theorem ledByte_chWriteOps_take (n : Nat) (d : Driver) (ch ch' : BitVec 4) (on off : BitVec 12) (k : BitVec 2) :
    ledByte (runBusOps ((chWriteOps ch on off).take n) d) ch' k =
      if ch' = ch ∧ k.toNat < n then countByte on off k else ledByte d ch' k :=
  ledByte_groupWrites (countByte on off) n d ch ch' k

/-- An answered request sets the four registers of its channel, and no other register. -/
theorem ledByte_chWriteOps (d : Driver) (ch ch' : BitVec 4) (on off : BitVec 12) (k : BitVec 2) :
    ledByte (runBusOps (chWriteOps ch on off) d) ch' k = if ch' = ch then countByte on off k else ledByte d ch' k := by
  have := ledByte_chWriteOps_take 4 d ch ch' on off k
  simpa [chWriteOps, groupOrder, k.isLt] using this

/-- Everything a failed request changes in the DRIVER: registers and pair of its own channel. -/
theorem forgetChannel_spec (ch : BitVec 4) (d : Driver) :
    (∃ l, forgetChannel ch d =
      { d with leds := l, pairs := d.pairs.set ch.toNat (Config.chipPair d.losses) ch.isLt, losses := d.losses + 1 }) ∧
    ∀ ch' k, ledByte (forgetChannel ch d) ch' k = if ch' = ch then Config.lostByte d.losses k else ledByte d ch' k := by
  constructor
  · obtain ⟨l, hl⟩ := runBusOps_groupWrites (Config.lostByte d.losses) 4 d ch
    have hl' : runBusOps (groupOrder.map fun j => .write (.led ch j) (Config.lostByte d.losses j)) d = { d with leds := l } := hl
    exact ⟨l, by rw [forgetChannel, hl']; rfl⟩
  · intro ch' k
    have := ledByte_groupWrites (Config.lostByte d.losses) 4 d ch ch' k
    have h4 : k.toNat < 4 := k.isLt
    simp only [h4, and_true] at this
    exact this

/-- Everything a request that a reset abandons after `n` writes changes in the DRIVER: registers and pair of its channel. -/
theorem abandonWrite_spec (n : Fin 5) (ch : BitVec 4) (on off : BitVec 12) (d : Driver) :
    (∃ l, abandonWrite n ch on off d =
      { d with leds := l, pairs := d.pairs.set ch.toNat (pairAfter n ch on off d) ch.isLt, losses := d.losses + 1 }) ∧
    ∀ ch' k, ledByte (abandonWrite n ch on off d) ch' k =
      if ch' = ch ∧ k.toNat < n.val then countByte on off k else ledByte d ch' k := by
  constructor
  · obtain ⟨l, hl⟩ := runBusOps_groupWrites (countByte on off) n.val d ch
    have hl' : runBusOps ((chWriteOps ch on off).take n.val) d = { d with leds := l } := hl
    exact ⟨l, by rw [abandonWrite, hl']; rfl⟩
  · exact fun ch' k => ledByte_chWriteOps_take ..

/-- One register of every channel in a list is written, the others keep what they list. -/
theorem cellLookup_foldl_ledKey (l : List (BitVec 4)) (m : List Host.Cell) (k k' : BitVec 2) (v : Byte) (ch : BitVec 4) :
    cellLookup (l.foldl (fun m ch => cellSet m (ledKey ch k) v) m) (ledKey ch k') =
      if k' = k ∧ ch ∈ l then some v else cellLookup m (ledKey ch k') := by
  induction l generalizing m with
  | nil => simp
  | cons c l ih =>
    simp only [List.foldl_cons, ih, cellLookup_cellSet]
    by_cases hk : k' = k
    · subst hk
      by_cases hc : ch = c
      · subst hc; simp
      · have : ledKey ch k' ≠ ledKey c k' := fun h => hc (ledKey_inj h).1
        simp [hc, this]
    · have : ledKey ch k' ≠ ledKey c k := fun h => hk (ledKey_inj h).2
      simp [hk, this]

end Sys2Proof.Laws
end

