-- ==== Sys2Proof/Laws/State.lean ====
section
/-! SUPPORT. Beside `State`: what each named update leaves in each field, true by `rfl`, so that later proofs never unfold a
record update. A conjunction is several rewrite rules at once. -/

namespace Sys2Proof.Laws

open Sys2Proof.Machine

@[simp] theorem endRun_cfg (st : RunState) (s : State) : (endRun st s).cfg = s.cfg := rfl
@[simp] theorem endRun_status (st : RunState) (s : State) :
    (endRun st s).status = { s.status with state := st } := rfl
@[simp] theorem endRun_curColor (st : RunState) (s : State) : (endRun st s).curColor = s.curColor := rfl
@[simp] theorem endRun_convIn (st : RunState) (s : State) : (endRun st s).convIn = s.convIn := rfl
@[simp] theorem endRun_mem (st : RunState) (s : State) : (endRun st s).mem = s.mem := rfl
@[simp] theorem endRun_resets (st : RunState) (s : State) : (endRun st s).resets = s.resets := rfl
@[simp] theorem endRun_tape (st : RunState) (s : State) : (endRun st s).tape = s.tape := rfl
@[simp] theorem endRun_trace (st : RunState) (s : State) : (endRun st s).trace = s.trace := rfl
@[simp] theorem endRun_drv (st : RunState) (s : State) : (endRun st s).drv = s.drv := rfl
@[simp] theorem endRun_phase (st : RunState) (s : State) : (endRun st s).eng.phase = .idle := rfl
@[simp] theorem endRun_stop (st : RunState) (s : State) : (endRun st s).eng.stop = false := rfl
@[simp] theorem endRun_fc (st : RunState) (s : State) : (endRun st s).eng.fc = s.eng.fc := rfl
@[simp] theorem endRun_wrReq (st : RunState) (s : State) : (endRun st s).port.wrReq = false := rfl
@[simp] theorem endRun_rndReq (st : RunState) (s : State) : (endRun st s).port.rndReq = false := rfl

@[simp] theorem setRdata_keeps (w : Word) (s : State) :
    (setRdata w s).cfg = s.cfg ∧ (setRdata w s).status = s.status ∧ (setRdata w s).eng = s.eng ∧
    (setRdata w s).curColor = s.curColor ∧ (setRdata w s).convIn = s.convIn ∧ (setRdata w s).mem = s.mem ∧
    (setRdata w s).resets = s.resets ∧ (setRdata w s).tape = s.tape ∧ (setRdata w s).trace = s.trace ∧
    (setRdata w s).drv = s.drv ∧ (setRdata w s).port = { s.port with hRdata := w } :=
  ⟨rfl, rfl, rfl, rfl, rfl, rfl, rfl, rfl, rfl, rfl, rfl⟩

@[simp] theorem invalidate_keeps (s : State) :
    (invalidate s).cfg = s.cfg ∧ (invalidate s).eng = s.eng ∧ (invalidate s).port = s.port ∧
    (invalidate s).curColor = s.curColor ∧ (invalidate s).convIn = s.convIn ∧ (invalidate s).mem = s.mem ∧
    (invalidate s).resets = s.resets ∧ (invalidate s).tape = s.tape ∧ (invalidate s).trace = s.trace ∧
    (invalidate s).drv = s.drv :=
  ⟨rfl, rfl, rfl, rfl, rfl, rfl, rfl, rfl, rfl, rfl⟩

@[simp] theorem commandError_keeps (s : State) :
    (raiseError .command s).cfg = s.cfg ∧ (raiseError .command s).eng = s.eng ∧
    (raiseError .command s).port = s.port ∧ (raiseError .command s).curColor = s.curColor ∧
    (raiseError .command s).convIn = s.convIn ∧ (raiseError .command s).mem = s.mem ∧
    (raiseError .command s).resets = s.resets ∧ (raiseError .command s).tape = s.tape ∧
    (raiseError .command s).trace = s.trace ∧ (raiseError .command s).drv = s.drv ∧
    (raiseError .command s).status = { s.status with cmdErr := true } :=
  ⟨rfl, rfl, rfl, rfl, rfl, rfl, rfl, rfl, rfl, rfl, rfl⟩

@[simp] theorem ignoredWrite_keeps (s : State) :
    (raiseError .ignoredWrite s).cfg = s.cfg ∧ (raiseError .ignoredWrite s).eng = s.eng ∧
    (raiseError .ignoredWrite s).port = s.port ∧ (raiseError .ignoredWrite s).curColor = s.curColor ∧
    (raiseError .ignoredWrite s).convIn = s.convIn ∧ (raiseError .ignoredWrite s).mem = s.mem ∧
    (raiseError .ignoredWrite s).resets = s.resets ∧ (raiseError .ignoredWrite s).tape = s.tape ∧
    (raiseError .ignoredWrite s).trace = s.trace ∧ (raiseError .ignoredWrite s).drv = s.drv ∧
    (raiseError .ignoredWrite s).status = { s.status with wrIgnored := true } :=
  ⟨rfl, rfl, rfl, rfl, rfl, rfl, rfl, rfl, rfl, rfl, rfl⟩

@[simp] theorem configurationError_keeps (c : CfgErr) (s : State) :
    (raiseError (.configuration c) s).cfg = s.cfg ∧ (raiseError (.configuration c) s).eng = s.eng ∧
    (raiseError (.configuration c) s).port = s.port ∧ (raiseError (.configuration c) s).curColor = s.curColor ∧
    (raiseError (.configuration c) s).convIn = s.convIn ∧ (raiseError (.configuration c) s).mem = s.mem ∧
    (raiseError (.configuration c) s).resets = s.resets ∧ (raiseError (.configuration c) s).tape = s.tape ∧
    (raiseError (.configuration c) s).trace = s.trace ∧ (raiseError (.configuration c) s).drv = s.drv :=
  ⟨rfl, rfl, rfl, rfl, rfl, rfl, rfl, rfl, rfl, rfl⟩

@[simp] theorem raiseError_bus (s : State) : raiseError .bus s = endRun .busError s := rfl

@[simp] theorem record_keeps (i : TraceItem) (s : State) :
    (record i s).cfg = s.cfg ∧ (record i s).status = s.status ∧ (record i s).eng = s.eng ∧
    (record i s).port = s.port ∧ (record i s).curColor = s.curColor ∧ (record i s).convIn = s.convIn ∧
    (record i s).mem = s.mem ∧ (record i s).resets = s.resets ∧ (record i s).tape = s.tape ∧
    (record i s).drv = s.drv ∧ (record i s).trace = s.trace ++ [i] :=
  ⟨rfl, rfl, rfl, rfl, rfl, rfl, rfl, rfl, rfl, rfl, rfl⟩

@[simp] theorem nextAction_keeps (s : State) :
    (nextAction s).cfg = s.cfg ∧ (nextAction s).status = s.status ∧ (nextAction s).port = s.port ∧
    (nextAction s).curColor = s.curColor ∧ (nextAction s).convIn = s.convIn ∧ (nextAction s).mem = s.mem ∧
    (nextAction s).resets = s.resets ∧ (nextAction s).tape = s.tape ∧ (nextAction s).trace = s.trace ∧
    (nextAction s).drv = s.drv ∧ (nextAction s).eng = { s.eng with phase := .issue, p := s.eng.p + 1 } :=
  ⟨rfl, rfl, rfl, rfl, rfl, rfl, rfl, rfl, rfl, rfl, rfl⟩

@[simp] theorem latchWrite_keeps (x : Lane) (v : Byte) (s : State) :
    (latchWrite x v s).cfg = s.cfg ∧ (latchWrite x v s).status = s.status ∧ (latchWrite x v s).port = s.port ∧
    (latchWrite x v s).curColor = s.curColor ∧ (latchWrite x v s).convIn = s.convIn ∧ (latchWrite x v s).mem = s.mem ∧
    (latchWrite x v s).resets = s.resets ∧ (latchWrite x v s).tape = s.tape ∧ (latchWrite x v s).trace = s.trace ∧
    (latchWrite x v s).drv = s.drv ∧
    (latchWrite x v s).eng = { s.eng with wrb := { s.eng.wrb with lane := x, value := v } } :=
  ⟨rfl, rfl, rfl, rfl, rfl, rfl, rfl, rfl, rfl, rfl, rfl⟩

@[simp] theorem issueWrite_keeps (ch : BitVec 4) (off : BitVec 12) (s : State) :
    (issueWrite ch off s).cfg = s.cfg ∧ (issueWrite ch off s).status = s.status ∧
    (issueWrite ch off s).curColor = s.curColor ∧ (issueWrite ch off s).convIn = s.convIn ∧
    (issueWrite ch off s).mem = s.mem ∧ (issueWrite ch off s).resets = s.resets ∧
    (issueWrite ch off s).tape = s.tape ∧ (issueWrite ch off s).trace = s.trace ∧
    (issueWrite ch off s).drv = s.drv ∧
    (issueWrite ch off s).port = { s.port with wrReq := true, wrCh := ch, wrOn := 0, wrOff := off } ∧
    (issueWrite ch off s).eng = { s.eng with wrb := { s.eng.wrb with ch := ch, off := off }, phase := .waitWr } :=
  ⟨rfl, rfl, rfl, rfl, rfl, rfl, rfl, rfl, rfl, rfl, rfl⟩

@[simp] theorem setDraws_keeps (dl : List Nat) (s : State) :
    (setDraws dl s).cfg = s.cfg ∧ (setDraws dl s).status = s.status ∧ (setDraws dl s).port = s.port ∧
    (setDraws dl s).curColor = s.curColor ∧ (setDraws dl s).convIn = s.convIn ∧ (setDraws dl s).mem = s.mem ∧
    (setDraws dl s).resets = s.resets ∧ (setDraws dl s).tape = s.tape ∧ (setDraws dl s).trace = s.trace ∧
    (setDraws dl s).drv = s.drv ∧
    (setDraws dl s).eng = { s.eng with dl := dl, q := 0, dv := Vector.replicate 6 0 } :=
  ⟨rfl, rfl, rfl, rfl, rfl, rfl, rfl, rfl, rfl, rfl, rfl⟩

@[simp] theorem requestDraws_keeps (s : State) :
    (requestDraws s).cfg = s.cfg ∧ (requestDraws s).status = s.status ∧ (requestDraws s).curColor = s.curColor ∧
    (requestDraws s).convIn = s.convIn ∧ (requestDraws s).mem = s.mem ∧ (requestDraws s).resets = s.resets ∧
    (requestDraws s).tape = s.tape ∧ (requestDraws s).trace = s.trace ∧ (requestDraws s).drv = s.drv ∧
    (requestDraws s).port = { s.port with rndReq := true } ∧
    (requestDraws s).eng = { s.eng with phase := .draw, p := 0 } :=
  ⟨rfl, rfl, rfl, rfl, rfl, rfl, rfl, rfl, rfl, rfl, rfl⟩

@[simp] theorem chipAnswered_keeps (f : Bool) (s : State) :
    (chipAnswered f s).cfg = s.cfg ∧ (chipAnswered f s).status = s.status ∧ (chipAnswered f s).eng = s.eng ∧
    (chipAnswered f s).port = s.port ∧ (chipAnswered f s).curColor = s.curColor ∧
    (chipAnswered f s).convIn = s.convIn ∧ (chipAnswered f s).mem = s.mem ∧ (chipAnswered f s).resets = s.resets ∧
    (chipAnswered f s).tape = s.tape ∧ (chipAnswered f s).trace = s.trace :=
  ⟨rfl, rfl, rfl, rfl, rfl, rfl, rfl, rfl, rfl, rfl⟩

@[simp] theorem withDriverReady_keeps (s : State) :
    (withDriverReady s).cfg = s.cfg ∧ (withDriverReady s).status = s.status ∧ (withDriverReady s).eng = s.eng ∧
    (withDriverReady s).port = s.port ∧ (withDriverReady s).curColor = s.curColor ∧
    (withDriverReady s).convIn = s.convIn ∧ (withDriverReady s).mem = s.mem ∧
    (withDriverReady s).resets = s.resets ∧ (withDriverReady s).tape = s.tape ∧
    (withDriverReady s).trace = s.trace ∧ (withDriverReady s).drv = { s.drv with ready := true } :=
  ⟨rfl, rfl, rfl, rfl, rfl, rfl, rfl, rfl, rfl, rfl, rfl⟩

/-- What an `ok` answer leaves in each field (R133). -/
@[simp] theorem respond_ok_keeps (s : State) :
    (respond false s).cfg = s.cfg ∧ (respond false s).status = s.status ∧
    (respond false s).eng = { s.eng with phase := .issue, p := s.eng.p + 1 } ∧
    (respond false s).port = { s.port with wrReq := false } ∧
    (respond false s).curColor = setLane s.eng.wrb.lane s.eng.wrb.value s.curColor ∧
    (respond false s).convIn = s.convIn ∧ (respond false s).mem = s.mem ∧ (respond false s).resets = s.resets ∧
    (respond false s).tape = s.tape ∧ (respond false s).drv = s.drv ∧
    (respond false s).trace = s.trace ++ [.write s.port.wrCh s.port.wrOn s.port.wrOff true] :=
  ⟨rfl, rfl, rfl, rfl, rfl, rfl, rfl, rfl, rfl, rfl, rfl⟩

/-- What a `fail` answer leaves in each field (R133, R202). -/
@[simp] theorem respond_fail_keeps (s : State) :
    (respond true s).cfg = s.cfg ∧ (respond true s).status = { s.status with state := .busError } ∧
    (respond true s).eng = (endRun .busError s).eng ∧
    (respond true s).port = { s.port with wrReq := false, rndReq := false } ∧
    (respond true s).curColor = s.curColor ∧ (respond true s).convIn = s.convIn ∧ (respond true s).mem = s.mem ∧
    (respond true s).resets = s.resets ∧ (respond true s).tape = s.tape ∧ (respond true s).drv = s.drv ∧
    (respond true s).trace = s.trace ++ [.write s.port.wrCh s.port.wrOn s.port.wrOff false] :=
  ⟨rfl, rfl, rfl, rfl, rfl, rfl, rfl, rfl, rfl, rfl, rfl⟩

@[simp] theorem resetPab_eq (s : State) :
    (resetPab s).cfg = State.reset.cfg ∧ (resetPab s).status = State.reset.status ∧
    (resetPab s).eng = Engine.reset ∧ (resetPab s).port = State.reset.port ∧
    (resetPab s).curColor = ⟨0, 0, 0⟩ ∧ (resetPab s).convIn = ⟨0, 0, 0⟩ ∧ (resetPab s).mem = [] ∧
    (resetPab s).resets = s.resets + 1 ∧ (resetPab s).tape = s.tape ∧ (resetPab s).trace = s.trace ∧
    (resetPab s).drv = s.drv :=
  ⟨rfl, rfl, rfl, rfl, rfl, rfl, rfl, rfl, rfl, rfl, rfl⟩

@[simp] theorem startRun_keeps (s : State) :
    (startRun s).cfg = s.cfg ∧ (startRun s).status = { s.status with state := .running } ∧
    (startRun s).port = s.port ∧ (startRun s).curColor = s.curColor ∧ (startRun s).convIn = s.convIn ∧
    (startRun s).mem = s.mem ∧ (startRun s).resets = s.resets ∧ (startRun s).tape = s.tape ∧
    (startRun s).trace = [] ∧ (startRun s).drv = s.drv :=
  ⟨rfl, rfl, rfl, rfl, rfl, rfl, rfl, rfl, rfl, rfl⟩

@[simp] theorem takeFrame_keeps (r : Frame) (s : State) :
    (takeFrame r s).cfg = s.cfg ∧ (takeFrame r s).status = s.status ∧
    (takeFrame r s).eng = { s.eng with act := r.act, src := r.src, tgt := r.tgt, p := 0, phase := .issue } ∧
    (takeFrame r s).port = s.port ∧ (takeFrame r s).curColor = s.curColor ∧ (takeFrame r s).convIn = s.convIn ∧
    (takeFrame r s).mem = s.mem ∧ (takeFrame r s).resets = s.resets ∧ (takeFrame r s).tape = s.tape ∧
    (takeFrame r s).trace = s.trace ∧ (takeFrame r s).drv = s.drv :=
  ⟨rfl, rfl, rfl, rfl, rfl, rfl, rfl, rfl, rfl, rfl, rfl⟩

@[simp] theorem fillDraw_keeps (v : Word) (s : State) :
    (fillDraw v s).cfg = s.cfg ∧ (fillDraw v s).status = s.status ∧
    (fillDraw v s).eng = { s.eng with dv := s.eng.dv.setIfInBounds s.eng.q v, q := s.eng.q + 1 } ∧
    (fillDraw v s).port = { s.port with rndReq := decide (s.eng.q + 1 ≠ s.eng.dl.length) && s.port.rndReq } ∧
    (fillDraw v s).curColor = s.curColor ∧ (fillDraw v s).convIn = s.convIn ∧ (fillDraw v s).mem = s.mem ∧
    (fillDraw v s).resets = s.resets ∧ (fillDraw v s).tape = s.tape ∧ (fillDraw v s).trace = s.trace ∧
    (fillDraw v s).drv = s.drv :=
  ⟨rfl, rfl, rfl, rfl, rfl, rfl, rfl, rfl, rfl, rfl, rfl⟩

@[simp] theorem requestStop_keeps (s : State) :
    (requestStop s).cfg = s.cfg ∧ (requestStop s).status = s.status ∧
    (requestStop s).eng = { s.eng with stop := true } ∧ (requestStop s).port = s.port ∧
    (requestStop s).curColor = s.curColor ∧ (requestStop s).convIn = s.convIn ∧ (requestStop s).mem = s.mem ∧
    (requestStop s).resets = s.resets ∧ (requestStop s).tape = s.tape ∧ (requestStop s).trace = s.trace ∧
    (requestStop s).drv = s.drv :=
  ⟨rfl, rfl, rfl, rfl, rfl, rfl, rfl, rfl, rfl, rfl, rfl⟩

@[simp] theorem clearSticky_keeps (s : State) :
    (clearSticky s).cfg = s.cfg ∧ (clearSticky s).status = { s.status with cmdErr := false, wrIgnored := false } ∧
    (clearSticky s).eng = s.eng ∧ (clearSticky s).port = s.port ∧ (clearSticky s).curColor = s.curColor ∧
    (clearSticky s).convIn = s.convIn ∧ (clearSticky s).mem = s.mem ∧ (clearSticky s).resets = s.resets ∧
    (clearSticky s).tape = s.tape ∧ (clearSticky s).trace = s.trace ∧ (clearSticky s).drv = s.drv :=
  ⟨rfl, rfl, rfl, rfl, rfl, rfl, rfl, rfl, rfl, rfl, rfl⟩

@[simp] theorem pushEvent_keeps (e : Event) (s : State) :
    (pushEvent e s).cfg = s.cfg ∧ (pushEvent e s).status = s.status ∧ (pushEvent e s).eng = s.eng ∧
    (pushEvent e s).port = s.port ∧ (pushEvent e s).curColor = s.curColor ∧ (pushEvent e s).convIn = s.convIn ∧
    (pushEvent e s).mem = s.mem ∧ (pushEvent e s).resets = s.resets ∧ (pushEvent e s).tape = e :: s.tape ∧
    (pushEvent e s).trace = s.trace ∧ (pushEvent e s).drv = s.drv :=
  ⟨rfl, rfl, rfl, rfl, rfl, rfl, rfl, rfl, rfl, rfl, rfl⟩

@[simp] theorem chipAbandoned_keeps (s : State) :
    (chipAbandoned s).cfg = s.cfg ∧ (chipAbandoned s).status = s.status ∧ (chipAbandoned s).eng = s.eng ∧
    (chipAbandoned s).port = s.port ∧ (chipAbandoned s).curColor = s.curColor ∧ (chipAbandoned s).convIn = s.convIn ∧
    (chipAbandoned s).mem = s.mem ∧ (chipAbandoned s).resets = s.resets ∧ (chipAbandoned s).tape = s.tape ∧
    (chipAbandoned s).trace = s.trace :=
  ⟨rfl, rfl, rfl, rfl, rfl, rfl, rfl, rfl, rfl, rfl⟩

end Sys2Proof.Laws
end

