-- ==== Sys2Proof/Laws/Step.lean ====
section
/-! SUPPORT. What a step can do, said once: `frameOperation_cases` for the eight frame operations, `exec_mode_cases` over
them, and `step_cases` for a whole step. Invariants are proved by cases on these, without unfolding the step again. -/

namespace Sys2Proof.Laws

open Sys2Proof.Machine Sys2Proof.Safety

/-- What a frame operation that answers a next state did. -/
inductive FrameMove (draws : State → List Nat) (frame : State → Except Fault Frame)
    (commit : State → Except Fault State) (s : State) : State → Prop where
  /-- BEGIN with the stop flag set: the run is cancelled. -/
  | cancelled (hp : s.eng.phase = .begin) (hs : s.eng.stop = true) :
      FrameMove draws frame commit s (endRun .cancelled s)
  /-- BEGIN with draws: they are requested. -/
  | requested (hp : s.eng.phase = .begin) (hs : s.eng.stop = false) (hd : draws s ≠ []) :
      FrameMove draws frame commit s (requestDraws (setDraws (draws s) s))
  /-- BEGIN without draws: the frame is built. -/
  | builtAtOnce (hp : s.eng.phase = .begin) (hs : s.eng.stop = false) (hd : draws s = []) (r : Frame)
      (hf : frame (setDraws [] s) = .ok r) :
      FrameMove draws frame commit s (takeFrame r (setDraws [] s))
  /-- DRAW with all draws answered: the frame is built. -/
  | built (hp : s.eng.phase = .draw) (hq : s.eng.q = s.eng.dl.length) (r : Frame) (hf : frame s = .ok r) :
      FrameMove draws frame commit s (takeFrame r s)
  /-- END: the commit, then the next frame or the run's end. -/
  | closed (hp : s.eng.phase = .finish) (s' : State) (hc : commit s = .ok s') :
      FrameMove draws frame commit s (closeFrame s')
  /-- Another phase: nothing. -/
  | nothing (hp : s.eng.phase ≠ .begin ∧ s.eng.phase ≠ .finish ∧
      ¬ (s.eng.phase = .draw ∧ s.eng.q = s.eng.dl.length)) :
      FrameMove draws frame commit s s

theorem frameOperation_cases {draws : State → List Nat} {frame : State → Except Fault Frame}
    {commit : State → Except Fault State} {s t : State}
    (h : frameOperation draws frame commit s = .next t) : FrameMove draws frame commit s t := by
  unfold frameOperation at h
  split at h
  · rename_i hp
    unfold beginFrame at h
    split at h
    · cases h
      exact .cancelled hp ‹_›
    · rename_i hs
      have hs : s.eng.stop = false := by simpa using hs
      split at h
      · rename_i hd
        unfold buildFrame at h
        split at h
        · cases h
        · cases h
          exact .builtAtOnce hp hs hd _ ‹_›
      · rename_i n ns hd
        cases h
        have := FrameMove.requested (frame := frame) (commit := commit) hp hs (draws := draws) (by simp [hd])
        rwa [hd] at this
  · rename_i hp
    split at h
    · unfold buildFrame at h
      split at h
      · cases h
      · cases h
        exact .built hp ‹_› _ ‹_›
    · cases h
      exact .nothing ⟨by simp [hp], by simp [hp], by tauto⟩
  · rename_i hp
    unfold endFrame at h
    split at h
    · cases h
    · cases h
      exact .closed hp _ ‹_›
  all_goals
    cases h
    exact .nothing ⟨by simp [*], by simp [*], by simp [*]⟩

/-- The draws, frame and commit of a frame operation (R137 to R144). -/
def modeDraws : Instr → State → List Nat
  | .mSeqSoftRandom => drawsSeqSoftRandom
  | .mSeqRandom => drawsSeqRandom
  | .mRandomSoft => drawsRandomSoft
  | .mRandom => drawsColor
  | .mChaos => drawsChaos
  | _ => drawsNone

/-- The commit of a frame operation (R137 to R144). -/
def modeCommit : Instr → State → Except Fault State
  | .mSeqSoftRandom | .mRandomSoft => commitSource
  | .mSeqSoft | .mSequence => commitSeqIndex
  | .mRandom => commitIntIndex
  | _ => commitNothing

/-- A frame operation is `frameOperation` over its own three functions. -/
theorem exec_mode {i : Instr} (h : isMode i = true) (s : State) :
    exec i s = frameOperation (modeDraws i) (modeFrame i) (modeCommit i) s := by
  cases i <;> first | rfl | cases h

/-- What a frame operation that answers a next state did. -/
theorem exec_mode_cases {i : Instr} (hi : isMode i = true) {s t : State} (h : exec i s = .next t) :
    FrameMove (modeDraws i) (modeFrame i) (modeCommit i) s t :=
  frameOperation_cases (by rwa [exec_mode hi] at h)

/-- A mode code always decodes to a frame operation (R84). -/
theorem isMode_decodeMode (m : BitVec 3) : isMode (decodeMode m) = true := by
  unfold decodeMode
  split <;> rfl

/-- The model's draw bounds are the table of R132. -/
theorem modeDraws_eq_drawTable {i : Instr} (hi : isMode i = true) (s : State) :
    modeDraws i s = drawTable i s := by
  cases i <;> simp_all [isMode, modeDraws, drawTable, drawsSeqSoftRandom, drawsSeqRandom, drawsRandomSoft,
    drawsColor, drawsChaos, drawsNone, colorDraws, Config.pTicksPerSec]

/-- A commit writes nothing but `S`, `I_SEQ` and `I_INT`. -/
theorem modeCommit_keeps {i : Instr} {s s' : State} (h : modeCommit i s = .ok s') :
    ∃ (src : Color) (a b : BitVec 6), s' = { s with eng := { s.eng with src := src, iSeq := a, iInt := b } } := by
  have hs : ∀ s' : State, commitSource s = .ok s' →
      ∃ (src : Color) (a b : BitVec 6), s' = { s with eng := { s.eng with src := src, iSeq := a, iInt := b } } := by
    intro s' h; cases h; exact ⟨_, s.eng.iSeq, s.eng.iInt, rfl⟩
  have hn : ∀ s' : State, commitNothing s = .ok s' →
      ∃ (src : Color) (a b : BitVec 6), s' = { s with eng := { s.eng with src := src, iSeq := a, iInt := b } } := by
    intro s' h; cases h; exact ⟨s.eng.src, s.eng.iSeq, s.eng.iInt, rfl⟩
  have hq : ∀ s' : State, commitSeqIndex s = .ok s' →
      ∃ (src : Color) (a b : BitVec 6), s' = { s with eng := { s.eng with src := src, iSeq := a, iInt := b } } := by
    intro s' h
    unfold commitSeqIndex at h
    split at h
    · cases h
    · cases h; exact ⟨s.eng.src, _, s.eng.iInt, rfl⟩
  have hr : ∀ s' : State, commitIntIndex s = .ok s' →
      ∃ (src : Color) (a b : BitVec 6), s' = { s with eng := { s.eng with src := src, iSeq := a, iInt := b } } := by
    intro s' h
    unfold commitIntIndex at h
    split at h
    · split at h
      · cases h
      · cases h; exact ⟨s.eng.src, s.eng.iSeq, _, rfl⟩
    · cases h; exact ⟨s.eng.src, s.eng.iSeq, s.eng.iInt, rfl⟩
  cases i <;> first | exact hs _ h | exact hq _ h | exact hr _ h | exact hn _ h

/-- What a CMD word does, from the state the access left on `h_rdata`. -/
inductive CommandMove (s : State) : State → Prop where
  | nop : CommandMove s s
  | rejected : CommandMove s (raiseError .command s)
  | configured (h : s.status.state ≠ .running) : CommandMove s (configured s)
  | started (h : startPermitted s.status.state = true) (hd : s.drv.ready = true) : CommandMove s (startRun s)
  | stopRequested (h : s.status.state = .running) : CommandMove s (requestStop s)
  | flagsCleared : CommandMove s (clearSticky s)

theorem exec_command_cases {i : Instr} {w : Word} (hi : decode .cmd w = .ok i) {s t : State}
    (ho : setupOwed i s = false) (h : exec i s = .next t) : CommandMove s t := by
  have hc : i = .nop ∨ i = .configure ∨ i = .start ∨ i = .cancel ∨ i = .clrerr := by
    simp only [decode, decodeCmd] at hi
    split at hi
    · cases hi
    · split at hi <;> cases hi <;> simp
  rcases hc with rfl | rfl | rfl | rfl | rfl
  · cases h; exact .nop
  · simp only [exec, execConfigure] at h
    split at h <;> cases h
    · exact .rejected
    · exact .configured ‹_›
  · simp only [exec, execStart] at h
    split at h <;> cases h
    · rename_i hp
      exact .started hp (by simpa [setupOwed, hp] using ho)
    · exact .rejected
  · simp only [exec, execCancel] at h
    split at h <;> cases h
    · exact .stopRequested ‹_›
    · exact .nop
  · cases h; exact .flagsCleared

/-- What a host write to any address does. -/
inductive WriteMove (a : BitVec 12) (v : Word) (s : State) : State → Prop where
  | command (ha : regAt a = some .cmd) (t : State) (h : CommandMove s t) : WriteMove a v s t
  | ignored (r : Reg) (ha : regAt a = some r) (hr : regAccess r = .cfg) (hs : s.status.state = .running) :
      WriteMove a v s (raiseError .ignoredWrite s)
  | stored (r : Reg) (ha : regAt a = some r) (hr : regAccess r = .cfg) (hs : s.status.state ≠ .running) :
      WriteMove a v s (invalidate (storeReg r v s))
  | convIn (ha : regAt a = some .convIn) : WriteMove a v s { s with convIn := wordColor v }
  | nothing : WriteMove a v s s

theorem memWrite_cases (a : BitVec 12) (v : Word) (s : State) : WriteMove a v s (memWrite a v s) := by
  unfold memWrite
  split
  · exact .nothing
  · rename_i r hr
    split
    · split
      · exact .ignored r hr ‹_› ‹_›
      · exact .stored r hr ‹_› ‹_›
    · rename_i hrw
      cases r <;> simp [regAccess] at hrw
      exact .convIn hr
    all_goals exact .nothing

theorem hostWrite_cases {a : BitVec 12} {v : Word} {s t : State} (h : hostWrite a v s = .next t) :
    WriteMove a v s t := by
  unfold hostWrite at h
  split at h
  · rename_i ha
    split at h
    · rename_i i hi
      split at h
      · cases h
      · rename_i ho
        exact .command ha _ (exec_command_cases hi (by simpa using ho) h)
    · cases h
      exact .command ha _ .rejected
  · cases h
    exact memWrite_cases a v s

/-- A host read answers and changes nothing else; the converter operations answer what their register reads. -/
theorem hostRead_eq (a : BitVec 12) (s : State) : hostRead a s = .next (setRdata (memRead a s) s) := by
  unfold hostRead decode decodeDuty
  have hx : ((a.setWidth 32).extractLsb' 0 12 : BitVec 12) = a := by
    ext i hi; simp [BitVec.getElem_extractLsb', BitVec.getLsbD_setWidth, BitVec.getLsbD_eq_getElem hi]; omega
  simp only [hx]
  have key : ∀ n : Nat, a.toNat = n → a = BitVec.ofNat 12 n := by
    intro n h; rw [← h]; simp
  split <;> rename_i h
  · split at h
    · cases h; rename_i h; rw [key _ h]; rfl
    · cases h; rename_i h; rw [key _ h]; rfl
    · cases h; rename_i h; rw [key _ h]; rfl
    · cases h
  · rfl

/-- What a HOST step does. -/
theorem hostStep_cases {a : HostAccess} {s t : State} (h : hostStep a s = .next t) :
    (a.wr = true ∧ a.size = .word ∧ a.rd = false ∧ WriteMove a.addr a.wdata s t) ∨
    (a.wr = true ∧ a.size = .word ∧ a.rd = true ∧ WriteMove a.addr a.wdata (setRdata 0 s) t) ∨
    (a.wr = false ∧ a.size = .word ∧ a.rd = true ∧ t = setRdata (memRead a.addr s) s) ∨
    (a.wr = false ∧ a.rd = false ∧ t = s) := by
  unfold hostStep at h
  split at h
  · rename_i hor
    split at h
    · rename_i hz
      split at h
      · rename_i hw
        have := hostWrite_cases h
        cases hrd : a.rd with
        | true => simp only [hrd, if_true] at this; exact .inr (.inl ⟨hw, hz, rfl, this⟩)
        | false => simp only [hrd] at this; exact .inl ⟨hw, hz, rfl, this⟩
      · rename_i hw
        rw [hostRead_eq] at h
        cases h
        simp only [Bool.or_eq_true] at hor
        refine .inr (.inr (.inl ⟨by simpa using hw, hz, ?_, rfl⟩))
        tauto
    · cases h
  · rename_i hor
    cases h
    simp only [Bool.or_eq_true, not_or, Bool.not_eq_true] at hor
    exact .inr (.inr (.inr ⟨hor.1, hor.2, rfl⟩))

/-- What the ENGINE's step does. -/
inductive EngineMove (s : State) : State → Prop where
  | mode (hr : s.status.state = .running) (hp : s.eng.phase = .begin ∨ s.eng.phase = .finish) (t : State)
      (h : exec (decodeMode s.status.mode) s = .next t) : EngineMove s t
  | listEnd (hr : s.status.state = .running) (hp : s.eng.phase = .issue) (ha : s.eng.act[s.eng.p]? = none) :
      EngineMove s { s with eng := { s.eng with phase := .finish } }
  | write (hr : s.status.state = .running) (hp : s.eng.phase = .issue) (x : Lane) (v : Byte)
      (ha : s.eng.act[s.eng.p]? = some (.wr x v)) :
      EngineMove s (issueWrite (channelOf x s.cfg.channels) (toDuty v) (latchWrite x v s))
  | wait (hr : s.status.state = .running) (hp : s.eng.phase = .issue) (t : Word)
      (ha : s.eng.act[s.eng.p]? = some (.wt t)) : EngineMove s (startWait t s)
  | nothing : EngineMove s s

theorem engineStep_cases {s t : State} (h : engineStep s = .next t) : EngineMove s t := by
  unfold engineStep at h
  split at h
  · rename_i hr
    split at h
    · exact .mode hr (.inl ‹_›) _ h
    · exact .mode hr (.inr ‹_›) _ h
    · rename_i hp
      unfold issueStep at h
      split at h
      · cases h; exact .listEnd hr hp ‹_›
      · cases h; exact .write hr hp _ _ ‹_›
      · cases h; exact .wait hr hp _ ‹_›
    all_goals (cases h; exact .nothing)
  · cases h; exact .nothing

/-- A random answer has a bound that is not 0, and fills the next draw with the remainder. -/
theorem drawAnswer_eq {w : Word} {n : Nat} {s s' : State} (h : drawAnswer w n s = .ok s') :
    n ≠ 0 ∧ s' = fillDraw (BitVec.ofNat 32 (w.toNat % n)) s := by
  unfold drawAnswer at h
  split at h
  · cases h
  · cases h; exact ⟨‹_›, rfl⟩

/-- What a RANDOM step does. -/
inductive RandomMove (w : Word) (s : State) : State → Prop where
  | ignored : RandomMove w s s
  | drawn (hp : s.eng.phase = .draw) (hr : s.port.rndReq = true) (n : Nat) (hn : s.eng.dl[s.eng.q]? = some n)
      (h0 : n ≠ 0) (hq : s.eng.q + 1 ≠ s.eng.dl.length) :
      RandomMove w s (fillDraw (BitVec.ofNat 32 (w.toNat % n)) s)
  | last (hp : s.eng.phase = .draw) (hr : s.port.rndReq = true) (n : Nat) (hn : s.eng.dl[s.eng.q]? = some n)
      (h0 : n ≠ 0) (hq : s.eng.q + 1 = s.eng.dl.length) (t : State)
      (ht : exec (decodeMode s.status.mode) (fillDraw (BitVec.ofNat 32 (w.toNat % n)) s) = .next t) : RandomMove w s t

theorem randomStep_cases {w : Word} {s t : State} (h : randomStep w s = .next t) : RandomMove w s t := by
  unfold randomStep at h
  split at h
  · rename_i hp
    split at h
    · cases h; exact .ignored
    · rename_i n hn
      split at h
      · cases h
      · rename_i s' hs
        obtain ⟨h0, rfl⟩ := drawAnswer_eq hs
        split at h
        · rename_i hq
          exact .last hp.1 hp.2 n hn h0 hq t h
        · rename_i hq
          cases h; exact .drawn hp.1 hp.2 n hn h0 hq
  · cases h; exact .ignored

/-- What a DRIVER answer does. -/
inductive DriverMove (f : Bool) (s : State) : State → Prop where
  | ignored (h : ¬ (s.eng.phase = .waitWr ∧ s.port.wrReq = true)) : DriverMove f s s
  | answered (hp : s.eng.phase = .waitWr) (hr : s.port.wrReq = true) (hd : s.drv.ready = true) :
      DriverMove f s (respond f (chipAnswered f s))

theorem driverStep_cases {f : Bool} {s t : State} (h : driverStep f s = .next t) : DriverMove f s t := by
  unfold driverStep at h
  split at h
  · rename_i hc
    split at h <;> cases h
    exact .answered hc.1 hc.2 ‹_›
  · cases h; exact .ignored ‹_›

/-- The answer to an outstanding request, with the DRIVER set up. -/
theorem driverStep_answered {f : Bool} {s : State} (hp : s.eng.phase = .waitWr) (hr : s.port.wrReq = true)
    (hd : s.drv.ready = true) : driverStep f s = .next (respond f (chipAnswered f s)) := by
  rw [driverStep, if_pos ⟨hp, hr⟩, if_pos hd]

/-- What a step that answers a next state did, by the agent whose step it was. `popped s` is the state after the tape's
head is taken off. -/
inductive StepMove (s : State) : State → Prop where
  | engine (h : s.tape = [] ∨ ∃ r, s.tape = .engine :: r) (t : State) (m : EngineMove (popped s) t) : StepMove s t
  | reset (r : List Event) (h : s.tape = .reset :: r) : StepMove s (resetStep (popped s))
  | host (a : HostAccess) (r : List Event) (h : s.tape = .host a :: r) (t : State)
      (m : hostStep a (popped s) = .next t) : StepMove s t
  | driver (f : Bool) (r : List Event) (h : s.tape = .driver f :: r) (t : State) (m : DriverMove f (popped s) t) :
      StepMove s t
  | tick (r : List Event) (h : s.tape = .tick :: r) : StepMove s (tickPulse (popped s))
  | random (w : Word) (r : List Event) (h : s.tape = .random w :: r) (t : State) (m : RandomMove w (popped s) t) :
      StepMove s t
  | env (d : Driver) (hd : d.ready = true) (h : (∃ r, s.tape = .driverSetup :: r) ∨ ∃ hz r, s.tape = .driverSetFrequency hz :: r) :
      StepMove s { popped s with drv := d }

theorem step_cases {s t : State} (h : step s = .next t) : StepMove s t := by
  unfold step at h
  split at h
  · rename_i ht
    have hp : popped s = s := by unfold popped; rw [ht]; simp only [List.tail_nil]; rw [← ht]
    exact .engine (.inl ht) _ (by rw [hp]; exact engineStep_cases h)
  · rename_i e r ht
    have hp : ({ s with tape := r } : State) = popped s := by unfold popped; rw [ht]; rfl
    rw [hp] at h
    cases e with
    | reset => cases h; exact .reset r ht
    | host a => exact .host a r ht t h
    | driver f => exact .driver f r ht t (driverStep_cases h)
    | tick => cases h; exact .tick r ht
    | random w => exact .random w r ht t (randomStep_cases h)
    | engine => exact .engine (.inr ⟨r, ht⟩) t (engineStep_cases h)
    | driverSetup =>
      simp only [stepEvent, setupStep] at h
      split at h
      · cases h
      · cases h; exact .env _ rfl (.inl ⟨r, ht⟩)
    | driverSetFrequency hz =>
      simp only [stepEvent, setFrequencyStep] at h
      split at h
      · split at h
        · cases h
        · cases h; exact .env _ ‹_› (.inr ⟨hz, r, ht⟩)
      · cases h

end Sys2Proof.Laws
end

