-- ==== Sys2Proof/Laws/Frame.lean ====
section
/-! SUPPORT. The frame operations where their partial reads succeed, what a resolved configuration satisfies, and each
frame operation at the three points of a frame. -/

namespace Sys2Proof.Laws

open Sys2Proof.Machine Sys2Proof.Safety

theorem seqAt_of_lt {s : State} {n : Nat} (h : n < 64) : seqAt s n = .ok (seqEntry s (BitVec.ofNat 6 n)) := by
  unfold seqAt; rw [if_pos (by simpa [Config.pSeqDepth] using h)]

theorem nextIndex_of_ne_zero {i n : Nat} (h : n ≠ 0) : nextIndex i n = .ok ((i + 1) % n) := by
  unfold nextIndex; rw [if_neg h]

theorem useInt_iff (s : State) : useInt s = true ↔ s.cfg.flags.getLsbD 7 = true ∧ s.cfg.intLen ≠ 0 := by
  unfold useInt flagIntPresent; simp

/-- A configuration that resolves passed every check. -/
theorem resolve_ok {c : CfgRegs} {m : BitVec 3} (h : resolve c = (.none, m)) :
    channelsDistinct c.channels = true ∧
    (flagSeqPresent c.flags = true → 1 ≤ c.seqLen.toNat ∧ c.seqLen.toNat ≤ 64) ∧
    (flagIntPresent c.flags = true → c.intLen.toNat ≤ 64) ∧ resolveCascade c.flags = (.none, m) := by
  unfold resolve at h
  split at h
  · cases h
  split at h
  · cases h
  split at h
  · cases h
  split at h
  · cases h
  rename_i g1 g2 g3 g4
  refine ⟨by simpa using g1, ?_, ?_, h⟩
  · intro hf
    simp only [hf, Bool.true_and, beq_iff_eq] at g2
    have g3 : ¬ 64 < c.seqLen.toNat := fun h => g3 (by simp [hf, Config.pSeqDepth, h])
    have : c.seqLen.toNat ≠ 0 := fun h => g2 (BitVec.eq_of_toNat_eq (by simpa using h))
    omega
  · intro hf
    have g4 : ¬ 64 < c.intLen.toNat := fun h => g4 (by simp [hf, Config.pIntDepth, h])
    omega

/-- Only a configuration with a sequence resolves to a sequence mode. -/
theorem resolveCascade_sequence {f : BitVec 8} {m : BitVec 3} (h : resolveCascade f = (.none, m))
    (hs : isSequenceMode (decodeMode m) = true) : flagSeqPresent f = true := by
  by_contra hf
  simp only [Bool.not_eq_true] at hf
  unfold resolveCascade at h
  simp only [hf] at h
  repeat' split at h
  all_goals first | contradiction | (cases h; revert hs; decide) | cases h

/-- The begin of a frame with draws (R131). -/
theorem exec_begin_draws {i : Instr} {s : State} {n : Nat} {ns : List Nat} (hi : isMode i = true)
    (hp : s.eng.phase = .begin) (hs : s.eng.stop = false) (hd : modeDraws i s = n :: ns) :
    exec i s = .next (drawsRequested (n :: ns) s) := by
  rw [exec_mode hi, frameOperation, hp]
  simp only [beginFrame, hs, hd]; rfl

/-- The begin of a frame without draws (R131, R132). -/
theorem exec_begin_noDraws {i : Instr} {s : State} {r : Frame} (hi : isMode i = true) (hp : s.eng.phase = .begin)
    (hs : s.eng.stop = false) (hd : modeDraws i s = []) (hf : modeFrame i (noDraws s) = .ok r) :
    exec i s = .next (frameBuilt r.act r.src r.tgt (noDraws s)) := by
  have hf : modeFrame i (setDraws [] s) = .ok r := hf
  rw [exec_mode hi, frameOperation, hp]
  simp only [beginFrame, hs, hd, buildFrame, hf]; rfl

/-- The build of a frame with all its draws answered (R132). -/
theorem exec_build {i : Instr} {s : State} {r : Frame} (hi : isMode i = true) (hp : s.eng.phase = .draw)
    (hq : s.eng.q = s.eng.dl.length) (hf : modeFrame i s = .ok r) :
    exec i s = .next (frameBuilt r.act r.src r.tgt s) := by
  rw [exec_mode hi, frameOperation, hp]
  simp only [buildFrame, hq, if_true, hf]; rfl

/-- The end of a frame (R135). -/
theorem exec_finish {i : Instr} {s s' : State} (hi : isMode i = true) (hp : s.eng.phase = .finish)
    (hc : modeCommit i s = .ok s') : exec i s = .next (closeFrame s') := by
  rw [exec_mode hi, frameOperation, hp]
  simp only [endFrame, hc]

theorem closeFrame_eq_frameEnded (s : State) (src : Color) (a b : BitVec 6) :
    closeFrame { s with eng := { s.eng with src := src, iSeq := a, iInt := b } } = frameEnded src a b s := by
  unfold closeFrame frameEnded; split <;> rfl

end Sys2Proof.Laws
end

