-- ==== Sys2Proof/Laws/Host.lean ====
section
/-! SUPPORT. The register map and the masks: an address names a register exactly when it is the register's offset
(spec 10 R20), what a configuration write does (spec 20 R64, R66, R67), and the two mask identities. -/

namespace Sys2Proof.Laws

open Sys2Proof.Machine Sys2Proof.Safety

/-- Every register is found at its offset. -/
theorem regAt_regOffset (r : Reg) : regAt (regOffset r) = some r := by
  cases r
  case seqRam n => revert n; decide
  case intRam n => revert n; decide
  all_goals rfl

/-- A register is found at no other address. -/
theorem regOffset_of_regAt {a : BitVec 12} {r : Reg} (h : regAt a = some r) : a = regOffset r := by
  have split3 : a = a.extractLsb' 8 4 ++ a.extractLsb' 2 6 ++ a.extractLsb' 0 2 := by
    apply BitVec.eq_of_toNat_eq
    simp only [BitVec.toNat_append, BitVec.extractLsb'_toNat]
    have := a.isLt
    rw [← Nat.shiftLeft_add_eq_or_of_lt (by omega), ← Nat.shiftLeft_add_eq_or_of_lt (by omega)]
    simp only [Nat.shiftRight_eq_div_pow, Nat.shiftLeft_eq]
    omega
  have of_toNat : ∀ n : Nat, a.toNat = n → a = BitVec.ofNat 12 n := fun n h => by rw [← h]; simp
  unfold regAt at h
  split at h
  · cases h
  rename_i h0
  simp only [ne_eq, not_not] at h0
  split at h
  · rename_i h1; cases h; conv_lhs => rw [split3, h0, h1]
    rfl
  split at h
  · rename_i h1; cases h; conv_lhs => rw [split3, h0, h1]
    rfl
  split at h <;> cases h <;> rename_i hn <;> exact of_toNat _ hn

/-- No configuration register stands at `CMD`'s offset. -/
theorem regOffset_cfg_ne_cmd {r : Reg} (h : regAccess r = .cfg) : regOffset r ≠ 0x000 := by
  intro hc
  have := congrArg regAt hc
  rw [regAt_regOffset] at this
  cases this
  cases h

/-- The HOST owes `setup()` to a decoded command exactly when the word would begin a run before it. -/
theorem setupOwed_iff {w : Word} {i : Instr} {s : State} (h : decode .cmd w = .ok i) :
    setupOwed i s = true ↔ runBeforeSetup w s := by
  have h2 : i = .start ↔ w = 2 := by
    simp only [decode, decodeCmd] at h
    split at h
    · cases h
    · rename_i h0
      simp only [ne_eq, not_not] at h0
      have h0 := congrArg BitVec.toNat h0
      have h5 : (w.extractLsb' 0 4).toNat = w.toNat := by
        have hw := w.isLt
        simp only [BitVec.extractLsb'_toNat, Nat.shiftRight_eq_div_pow, BitVec.ofNat_eq_ofNat, BitVec.toNat_ofNat] at h0 ⊢
        omega
      rw [h5] at h
      have hw2 : w = 2 ↔ w.toNat = 2 := by
        constructor <;> intro h
        · simp [h]
        · exact BitVec.eq_of_toNat_eq (by simpa using h)
      rw [hw2]
      split at h <;> cases h <;> simp_all
  unfold setupOwed runBeforeSetup
  rw [← h2]
  cases hs : s.status.state <;> simp [startPermitted]

/-- A write of a configuration register: ignored in a run, stored with invalidation outside one. -/
theorem hostWriteStep_cfg {s : State} {r : Reg} {v : Word} (h : regAccess r = .cfg) :
    hostWriteStep (regOffset r) v s =
      .next (if s.status.state = .running then raiseError .ignoredWrite s else invalidate (storeReg r v s)) := by
  change hostWrite (regOffset r) v s = _
  rw [hostWrite, if_neg, memWrite, regAt_regOffset]
  · simp [h]
  · rw [regAt_regOffset]; intro hc; cases hc; cases h

/-- A colour register takes the low three bytes. -/
theorem colorWord_wordColor (v : Word) : colorWord (wordColor v) = v &&& 0x00FFFFFF := by
  apply BitVec.eq_of_toNat_eq
  have hm : (v &&& 0x00FFFFFF#32).toNat = v.toNat % 2 ^ 24 := by
    rw [BitVec.toNat_and]; exact Nat.and_two_pow_sub_one_eq_mod _ 24
  refine Eq.trans ?_ hm.symm
  simp only [colorWord, wordColor, BitVec.toNat_append, BitVec.extractLsb'_toNat]
  rw [← Nat.shiftLeft_add_eq_or_of_lt (by omega), ← Nat.shiftLeft_add_eq_or_of_lt (by omega),
    ← Nat.shiftLeft_add_eq_or_of_lt (by omega)]
  simp only [Nat.shiftRight_eq_div_pow, Nat.shiftLeft_eq, BitVec.toNat_ofNat]
  omega

/-- The low `k` bits, zero-extended, are the word under the mask of `k` ones. -/
theorem low_bits_eq_and (v : Word) (k : Nat) (hk : k < 32) :
    (v.extractLsb' 0 k).setWidth 32 = v &&& BitVec.ofNat 32 (2 ^ k - 1) := by
  apply BitVec.eq_of_toNat_eq
  simp only [BitVec.toNat_setWidth, BitVec.extractLsb'_toNat, BitVec.toNat_and, BitVec.toNat_ofNat,
    Nat.shiftRight_zero]
  have : 2 ^ k ≤ 2 ^ 31 := Nat.pow_le_pow_right (by omega) (by omega)
  have h2 : 0 < 2 ^ k := Nat.pow_pos (by omega)
  rw [Nat.mod_eq_of_lt (by omega : 2 ^ k - 1 < 2 ^ 32), Nat.and_two_pow_sub_one_eq_mod]
  have := Nat.mod_lt v.toNat h2
  rw [Nat.mod_eq_of_lt (by omega)]

/-- What a configuration register shows after the write. -/
theorem readReg_storeReg_self {s : State} {r : Reg} {v : Word} (h : regAccess r = .cfg) :
    readReg r (invalidate (storeReg r v s)) = v &&& writeMask r := by
  have hall : ∀ v : Word, v = v &&& 0xFFFFFFFF#32 := by
    intro v
    rw [show (0xFFFFFFFF#32) = BitVec.allOnes 32 by decide, BitVec.and_allOnes]
  cases r
  case flags => exact low_bits_eq_and v 8 (by omega)
  case channels => exact low_bits_eq_and v 12 (by omega)
  case rgb => exact colorWord_wordColor v
  case startColor => exact colorWord_wordColor v
  case interval => exact hall v
  case frameCount => exact low_bits_eq_and v 16 (by omega)
  case seqLen => exact low_bits_eq_and v 7 (by omega)
  case intLen => exact low_bits_eq_and v 7 (by omega)
  case seqRam n =>
    change colorWord (wordColor (readMemWord { s with mem := cellSetWord s.mem _ _ } _)) = _
    rw [readMemWord_cellSetWord_self, colorWord_wordColor]
    change v &&& 0x00FFFFFF#32 &&& 0x00FFFFFF#32 = _
    rw [BitVec.and_assoc, BitVec.and_self]; rfl
  case intRam n =>
    change readMemWord { s with mem := cellSetWord s.mem _ _ } _ = _
    rw [readMemWord_cellSetWord_self]; exact hall v
  all_goals cases h

end Sys2Proof.Laws
end

