-- ==== Sys2Proof/Laws/PerInstr.lean ====
section
/-! SUPPORT. Statements made per instruction. `TableRow` holds each constructor of `Instr` against its row of
spec/opcode_table.json, for every operand: the encoder puts it in the row's format, with the row's fixed bits. -/

namespace Sys2Proof.Laws.TableRow

/-- The row of an operation in spec/opcode_table.json: its format, its mask and its match. -/
def row : Instr → Format × Word × Word
  | .nop => (.cmd, 0xFFFFFFFF, 0x00000000)
  | .configure => (.cmd, 0xFFFFFFFF, 0x00000001)
  | .start => (.cmd, 0xFFFFFFFF, 0x00000002)
  | .cancel => (.cmd, 0xFFFFFFFF, 0x00000003)
  | .clrerr => (.cmd, 0xFFFFFFFF, 0x00000004)
  | .mSeqSoftRandom => (.mode, 0x7, 0x0)
  | .mSeqRandom => (.mode, 0x7, 0x1)
  | .mSeqSoft => (.mode, 0x7, 0x2)
  | .mSequence => (.mode, 0x7, 0x3)
  | .mRandomSoft => (.mode, 0x7, 0x4)
  | .mRandom => (.mode, 0x7, 0x5)
  | .mChaos => (.mode, 0x7, 0x6)
  | .mRegular => (.mode, 0x7, 0x7)
  | .chwrite _ _ => (.out, 0x00FFF000, 0x00000000)
  | .todutyR => (.duty, 0xFFF, 0x03C)
  | .todutyG => (.duty, 0xFFF, 0x040)
  | .todutyB => (.duty, 0xFFF, 0x044)

/-- The encoding of the operation has its row's format and fixed bits, and no bit outside its format. -/
def Statement (i : Instr) : Prop :=
  (encode i).1 = (row i).1 ∧ (encode i).2 &&& (row i).2.1 = (row i).2.2 ∧
    (encode i).2 &&& (row i).1.mask = (encode i).2

theorem nop : Statement .nop := by unfold Statement; decide
theorem configure : Statement .configure := by unfold Statement; decide
theorem start : Statement .start := by unfold Statement; decide
theorem cancel : Statement .cancel := by unfold Statement; decide
theorem clrerr : Statement .clrerr := by unfold Statement; decide
theorem mSeqSoftRandom : Statement .mSeqSoftRandom := by unfold Statement; decide
theorem mSeqRandom : Statement .mSeqRandom := by unfold Statement; decide
theorem mSeqSoft : Statement .mSeqSoft := by unfold Statement; decide
theorem mSequence : Statement .mSequence := by unfold Statement; decide
theorem mRandomSoft : Statement .mRandomSoft := by unfold Statement; decide
theorem mRandom : Statement .mRandom := by unfold Statement; decide
theorem mChaos : Statement .mChaos := by unfold Statement; decide
theorem mRegular : Statement .mRegular := by unfold Statement; decide

theorem chwrite (ch : BitVec 4) (off : BitVec 12) : Statement (.chwrite ch off) := by
  refine ⟨rfl, ?_, ?_⟩
  · change (0#4 ++ ch ++ 0#12 ++ off : BitVec 32) &&& (0#8 ++ BitVec.allOnes 12 ++ 0#12 : BitVec 32) = 0
    ext k hk
    simp only [BitVec.getElem_and, BitVec.getElem_append, BitVec.getElem_zero]
    split <;> simp
    omega
  · change (0#4 ++ ch ++ 0#12 ++ off : BitVec 32) &&& (0#4 ++ BitVec.allOnes 28 : BitVec 32) =
      (0#4 ++ ch ++ 0#12 ++ off : BitVec 32)
    ext k hk
    simp only [BitVec.getElem_and, BitVec.getElem_append, BitVec.getElem_allOnes, BitVec.getElem_zero]
    by_cases h : k < 28
    · simp [h]
    · simp [h, show ¬ k < 12 by omega, show ¬ k - 12 < 12 by omega, show ¬ k - 12 - 12 < 4 by omega]

theorem todutyR : Statement .todutyR := by unfold Statement; decide
theorem todutyG : Statement .todutyG := by unfold Statement; decide
theorem todutyB : Statement .todutyB := by unfold Statement; decide

end Sys2Proof.Laws.TableRow
end

