-- ==== Sys2Proof/Laws/Run.lean ====
section
/-! SUPPORT. The step of a known tape head, and runs of several steps. -/

namespace Sys2Proof.Laws

open Sys2Proof.Machine Sys2Proof.Safety

theorem step_of_tape_cons {s : State} {e : Event} {rest : List Event} (h : s.tape = e :: rest) :
    step s = stepEvent e { s with tape := rest } := by unfold step; rw [h]

theorem step_of_tape_nil {s : State} (h : s.tape = []) : step s = engineStep s := by unfold step; rw [h]

theorem nextEvent_of_tape_cons {s : State} {e : Event} {rest : List Event} (h : s.tape = e :: rest) :
    nextEvent s = e := by rw [nextEvent, h]; rfl

@[simp] theorem runSteps_zero (s : State) : runSteps 0 s = .next s := rfl

theorem runSteps_of_next {n : Nat} {s t : State} (h : step s = .next t) : runSteps (n + 1) s = runSteps n t := by
  simp only [runSteps, h]

/-- Two runs one after the other. -/
theorem runSteps_add (a b : Nat) {s t : State} (h : runSteps a s = .next t) :
    runSteps (a + b) s = runSteps b t := by
  induction a generalizing s with
  | zero => rw [runSteps_zero] at h; cases h; rw [Nat.zero_add]
  | succ a ih =>
    rw [show a + 1 + b = a + b + 1 by omega]
    cases hs : step s with
    | next u => rw [runSteps_of_next hs] at h ⊢; exact ih h
    | fault f => simp only [runSteps, hs] at h; cases h
    | refused r => simp only [runSteps, hs] at h; cases h

end Sys2Proof.Laws
end

