-- ==== Sys2Proof/Laws/Transition.lean ====
section
/-! SUPPORT. Small lemmas about the action lists of spec 43. -/

namespace Sys2Proof.Laws

open Sys2Proof.Machine

/-- The loop of a ramp gives two actions a value. -/
@[simp] theorem length_rampLoop (x : Lane) (d : Byte) (t : Word) (n : Nat) (v : Byte) :
    (rampLoop x d t n v).length = 2 * (n + 1) := by
  induction n generalizing v with
  | zero => rfl
  | succ n ih => simp [rampLoop, ih]; omega

@[simp] theorem ramp_self (x : Lane) (a : Byte) (t : Word) : ramp x a a t = [] := by simp [ramp]

@[simp] theorem rampWrites_self (a : Byte) : rampWrites a a = 0 := by simp [rampWrites]

/-- A ramp writes at most 256 values. -/
theorem rampWrites_le (a b : Byte) : rampWrites a b ≤ 256 := by
  unfold rampWrites
  split
  · omega
  · omega

/-- An action of a ramp's loop writes its own lane or waits its own interval. -/
theorem mem_rampLoop {x : Lane} {d : Byte} {t : Word} {n : Nat} {v : Byte} {act : Action}
    (h : act ∈ rampLoop x d t n v) : act = .wt t ∨ ∃ w : Byte, act = .wr x w := by
  induction n generalizing v with
  | zero => simp [rampLoop] at h; rcases h with h | h <;> simp [h]
  | succ n ih =>
    simp only [rampLoop, List.mem_cons] at h
    rcases h with h | h | h
    · exact .inr ⟨v, h⟩
    · exact .inl h
    · exact ih h

@[simp] theorem length_setColor (c : Color) : (setColor c).length = 3 := rfl

/-- The `k`-th write and wait of a ramp's loop. -/
theorem rampLoop_getElem? (x : Lane) (d : Byte) (t : Word) (n : Nat) (v : Byte) (k : Nat) (hk : k ≤ n) :
    (rampLoop x d t n v)[2 * k]? = some (.wr x (v + BitVec.ofNat 8 k * d)) ∧
      (rampLoop x d t n v)[2 * k + 1]? = some (.wt t) := by
  induction n generalizing v k with
  | zero =>
    obtain rfl : k = 0 := by omega
    simp [rampLoop]
  | succ n ih =>
    cases k with
    | zero => simp [rampLoop]
    | succ k =>
      obtain ⟨h1, h2⟩ := ih (v + d) k (by omega)
      simp only [rampLoop]
      rw [show 2 * (k + 1) = 2 * k + 1 + 1 by omega]
      simp only [List.getElem?_cons_succ, h1, h2, and_true]
      congr 2
      rw [show BitVec.ofNat 8 (k + 1) = BitVec.ofNat 8 k + 1 by rw [BitVec.ofNat_add]; rfl]
      ring

end Sys2Proof.Laws
end

