-- ==== Sys2Proof/Tests/Slice0.lean ====
section
/-! SUPPORT. The model's own tests: the well-formedness smoke test, the decoding of a word written out bit by bit for every
row of the opcode table, one-step tests with values from spec 95 and the worked examples of specs 40 to 44, and for every
obligation with hypotheses a state and operands that meet them, at the boundary values of each clause. -/

namespace Sys2Proof.Tests

open Sys2Proof.Machine Sys2Proof.Safety

/-! ### Well-formedness: 1 and 15 are the duties of no component (spec 95 L2.1: the last entries are 32, 16, 0) -/

theorem test_illformed_chwrite : (Instr.chwrite 0 1).wellFormed = false ∧ (Instr.chwrite 15 15).wellFormed = false := by
  decide

theorem test_wellformed_chwrite :
    (Instr.chwrite 0 4095).wellFormed = true ∧ (Instr.chwrite 15 0).wellFormed = true ∧
      (Instr.chwrite 1 2039).wellFormed = true := by decide

/-! ### Decoding: OP in CMD[3:0] (R82, R83), MODE (R84), ch on off (R86), a read address (R103) -/

theorem test_decode_nop : decode .cmd 0b00000000_00000000_00000000_00000000 = .ok .nop := by decide
theorem test_decode_configure : decode .cmd 0b00000000_00000000_00000000_00000001 = .ok .configure := by decide
theorem test_decode_start : decode .cmd 0b00000000_00000000_00000000_00000010 = .ok .start := by decide
theorem test_decode_cancel : decode .cmd 0b00000000_00000000_00000000_00000011 = .ok .cancel := by decide
theorem test_decode_clrerr : decode .cmd 0b00000000_00000000_00000000_00000100 = .ok .clrerr := by decide
theorem test_decode_mSeqSoftRandom : decode .mode 0b000 = .ok .mSeqSoftRandom := by decide
theorem test_decode_mSeqRandom : decode .mode 0b001 = .ok .mSeqRandom := by decide
theorem test_decode_mSeqSoft : decode .mode 0b010 = .ok .mSeqSoft := by decide
theorem test_decode_mSequence : decode .mode 0b011 = .ok .mSequence := by decide
theorem test_decode_mRandomSoft : decode .mode 0b100 = .ok .mRandomSoft := by decide
theorem test_decode_mRandom : decode .mode 0b101 = .ok .mRandom := by decide
theorem test_decode_mChaos : decode .mode 0b110 = .ok .mChaos := by decide
theorem test_decode_mRegular : decode .mode 0b111 = .ok .mRegular := by decide

/-- Channel 9 in [27:24], on count 0 in [23:12], off count 2039 = toDuty(128) in [11:0]. -/
theorem test_decode_chwrite : decode .out 0b0000_1001_000000000000_011111110111 = .ok (.chwrite 9 2039) := by decide

theorem test_decode_todutyR : decode .duty 0b0000_0011_1100 = .ok .todutyR := by decide
theorem test_decode_todutyG : decode .duty 0b0000_0100_0000 = .ok .todutyG := by decide
theorem test_decode_todutyB : decode .duty 0b0000_0100_0100 = .ok .todutyB := by decide

/-- Rejections by name: the words `0x5`, `0xF` and `0x12` of spec 95 L2.4 and L2.12, an on count, a count that is no duty,
the address of CONV_IN. -/
theorem test_decode_rejects :
    decode .cmd 0x5 = .error .reservedOpcode ∧ decode .cmd 0xF = .error .reservedOpcode ∧
    decode .cmd 0x12 = .error .reservedBits ∧ decode .cmd 0x80000002 = .error .reservedBits ∧
    decode .out 0x00001000 = .error .onNotZero ∧ decode .out 0x00000001 = .error .offNotDuty ∧
    decode .duty 0x038 = .error .notConverter := by decide

theorem test_decodeTableWord :
    decodeTableWord 32 2 = some .start ∧ decodeTableWord 8 5 = some .mRandom ∧
    decodeTableWord 24 0x0007F7 = some (.chwrite 0 2039) ∧ decodeTableWord 16 0x044 = some .todutyB := by decide

/-! ### States for the tests -/

/-- After reset and `setup()`, with these flags, lengths 2 and 0, and interval 100. -/
def configured2 (flags : BitVec 8) : State :=
  { State.reset with
    cfg := { State.reset.cfg with flags := flags, seqLen := 2, interval := 100 }
    drv := { State.reset.drv with ready := true } }

/-- A run in this mode and phase over that configuration. -/
def inRun (flags : BitVec 8) (mode : BitVec 3) (p : Phase) : State :=
  { configured2 flags with
    status := ⟨.running, mode, true, .none, false, false⟩
    eng := { Engine.reset with phase := p, first := true } }

/-- `SEQ_RAM[0]` and `SEQ_RAM[1]` written. -/
def withSequence (c0 c1 : Color) (s : State) : State :=
  storeReg (.seqRam 1) (colorWord c1) (storeReg (.seqRam 0) (colorWord c0) s)

/-- All draws answered with these results. -/
def withDraws (dl : List Nat) (dv : Vector Word 6) (s : State) : State :=
  { s with eng := { s.eng with phase := .draw, dl := dl, q := dl.length, dv := dv } }

/-- The frame built by an outcome. -/
def builtFrame (r : Result) : Option (List Action) := (nextState r).map (·.eng.act)

/-- The refusal of an outcome. -/
def refusalOf : Result → Option Refusal
  | .refused r => some r
  | .next _ => none
  | .fault _ => none

/-- The `STATUS` word after an outcome. -/
def statusAfter (r : Result) : Option Word := (nextState r).map statusWord

/-! ### Commands (spec 95 L1.3, L2.2, L2.4, L3 P1, P4, P6) -/

def readyState (flags : BitVec 8) (mode : BitVec 3) : State :=
  { configured2 flags with status := ⟨.ready, mode, true, .none, false, false⟩ }

theorem test_nop : statusAfter (exec .nop (readyState 0x10 3)) = some 0x000000B1 := by decide
theorem test_configure_fails : statusAfter (exec .configure State.reset) = some 0x00000106 := by decide

theorem test_configure_modes :
    (nextState (exec .configure (configured2 0x3F))).map statusWord = some 0x00000081 ∧
    statusAfter (exec .configure (configured2 0x16)) = some 0x00000091 ∧
    statusAfter (exec .configure (configured2 0x19)) = some 0x000000A1 ∧
    statusAfter (exec .configure (configured2 0x24)) = some 0x000000D1 ∧
    statusAfter (exec .configure (configured2 0x0B)) = some 0x00000506 ∧
    statusAfter (exec .configure (configured2 0x23)) = some 0x000000F1 := by decide

theorem test_start_refused : statusAfter (exec .start State.reset) = some 0x00001000 := by decide

/-- P1: `START` makes `STATUS` 0xF2 and `FRAME_REMAIN` 1. -/
theorem test_start :
    (nextState (exec .start { readyState 0x20 7 with cfg := { (configured2 0x20).cfg with frameCount := 1 } })).map
      (fun t => (statusWord t, readReg .frameRemain t)) = some (0x000000F2, 1) := by decide

theorem test_cancel : statusAfter (exec .cancel (inRun 0x10 3 .issue)) = some 0x000040B2 := by decide
theorem test_cancel_idle : statusAfter (exec .cancel (readyState 0x10 3)) = some 0x000000B1 := by decide

/-- P4: `STATUS` 0x1000 becomes 0. -/
theorem test_clrerr : statusAfter (exec .clrerr (withCmdErr State.reset)) = some 0 := by decide

/-! ### Frame operations (the examples of R137 to R144) -/

theorem test_mSeqSoftRandom :
    builtFrame (exec .mSeqSoftRandom (withDraws [2, 2] #v[0, 1, 0, 0, 0, 0]
      (withSequence ⟨0, 0, 0⟩ ⟨0, 0, 3⟩ (inRun 0x13 0 .begin)))) =
    some [.wr .b 0, .wt 100, .wr .b 1, .wt 100, .wr .b 2, .wt 100, .wr .b 3, .wt 100] := by decide

/-- The next frame starts from the last target, and its one draw is the new target (F0b). -/
theorem test_mSeqSoftRandom_next :
    let s := withDraws [2] #v[0, 0, 0, 0, 0, 0] (withSequence ⟨0, 0, 0⟩ ⟨0, 0, 3⟩ (inRun 0x13 0 .begin))
    builtFrame (exec .mSeqSoftRandom { s with eng := { s.eng with first := false, src := ⟨0, 0, 3⟩ } }) =
    some [.wr .b 3, .wt 100, .wr .b 2, .wt 100, .wr .b 1, .wt 100, .wr .b 0, .wt 100] := by decide

theorem test_mSeqRandom :
    builtFrame (exec .mSeqRandom (withDraws [2] #v[1, 0, 0, 0, 0, 0]
      (withSequence ⟨255, 0, 0⟩ ⟨0, 255, 0⟩ (inRun 0x12 1 .begin)))) =
    some [.wr .r 0, .wr .g 255, .wr .b 0, .wt 100] := by decide

theorem test_mSeqSoft :
    builtFrame (exec .mSeqSoft (withSequence ⟨2, 0, 0⟩ ⟨0, 1, 0⟩ (inRun 0x11 2 .begin))) =
    some [.wr .r 2, .wt 100, .wr .r 1, .wt 100, .wr .r 0, .wt 100, .wr .g 0, .wt 100, .wr .g 1, .wt 100] := by decide

/-- After the last element `SEQ_INDEX` wraps to 0, and with frames left the next one begins. -/
theorem test_mSeqSoft_wraps :
    let s := inRun 0x11 2 .finish
    (nextState (exec .mSeqSoft { s with eng := { s.eng with iSeq := 1, fc := 3 } })).map
      (fun t => (t.eng.iSeq, t.eng.fc, t.eng.phase, t.eng.first)) = some (0, 2, .begin, false) := by decide

theorem test_mSequence :
    let s := withSequence ⟨255, 0, 0⟩ ⟨0, 255, 0⟩ (inRun 0x10 3 .begin)
    builtFrame (exec .mSequence { s with eng := { s.eng with iSeq := 1 } }) =
    some [.wr .r 0, .wr .g 255, .wr .b 0, .wt 100] := by decide

/-- The last frame of a run ends it `DONE`. -/
theorem test_mSequence_done : statusAfter (exec .mSequence (inRun 0x10 3 .finish)) = some 0x000000B3 := by decide

theorem test_mRandomSoft :
    builtFrame (exec .mRandomSoft (withDraws [256, 256, 256] #v[1, 0, 0, 0, 0, 0] (inRun 0x45 4 .begin))) =
    some [.wr .r 0, .wt 100, .wr .r 1, .wt 100] := by decide

/-- Without a start colour the first three draws are the source, the next three the target (F4b). -/
theorem test_mRandomSoft_sampled :
    builtFrame (exec .mRandomSoft (withDraws [256, 256, 256, 256, 256, 256] #v[0, 0, 0, 0, 0, 2] (inRun 0x05 4 .begin))) =
    some [.wr .b 0, .wt 100, .wr .b 1, .wt 100, .wr .b 2, .wt 100] := by decide

/-- The nine writes and the main delay; the flash wait between them is `P_FLASH`, whatever it is. -/
theorem test_mRandom :
    let act := builtFrame (exec .mRandom (withDraws [256, 256, 256] #v[10, 20, 30, 0, 0, 0] (inRun 0x04 5 .begin)))
    act.map (·.take 6) =
      some [.wr .r 10, .wr .g 20, .wr .b 30, .wr .r 255, .wr .g 255, .wr .b 255] ∧
    act.map (·.drop 7) = some [.wr .r 10, .wr .g 20, .wr .b 30, .wt 100] := by decide

/-- P5: with the interval sequence 5, 7 the second frame waits 7, and `INT_INDEX` wraps after it. -/
theorem test_mRandom_intervals :
    let s := storeReg (.intRam 1) 7 (storeReg (.intRam 0) 5 (inRun 0x84 5 .begin))
    let s := { s with cfg := { s.cfg with intLen := 2 }, eng := { s.eng with iInt := 1 } }
    (builtFrame (exec .mRandom (withDraws [256, 256, 256] #v[255, 0, 0, 0, 0, 0] s))).map (·.drop 10) = some [.wt 7] ∧
    (nextState (exec .mRandom { s with eng := { s.eng with phase := .finish, fc := 1 } })).map (·.eng.iInt) = some 0 := by
  decide

theorem test_mChaos :
    builtFrame (exec .mChaos (withDraws [256, 256, 256, 1000] #v[255, 255, 255, 999, 0, 0] (inRun 0x08 6 .begin))) =
    some [.wr .r 255, .wr .g 255, .wr .b 255, .wt 999] := by decide

/-- F6b: the delay draw 0xFFFFFFFF reduces to 295, and the last draw builds the frame. -/
theorem test_mChaos_draws :
    let s := withDraws [256, 256, 256, 1000] #v[255, 0, 255, 0, 0, 0] (inRun 0x08 6 .begin)
    let s := { s with eng := { s.eng with q := 3 }, port := { s.port with rndReq := true } }
    builtFrame (stepEvent (.random 0xFFFFFFFF) s) = some [.wr .r 255, .wr .g 0, .wr .b 255, .wt 295] := by decide

theorem test_mRegular :
    let s := inRun 0x20 7 .begin
    builtFrame (exec .mRegular { s with cfg := { s.cfg with rgb := ⟨255, 0, 0⟩ } }) =
    some [.wr .r 255, .wr .g 0, .wr .b 0, .wt 100, .wr .r 0, .wr .g 0, .wr .b 0, .wt 100] := by decide

/-! ### The output port and the converter (spec 95 L1.9, L2.6) -/

theorem test_chwrite :
    (nextState (exec (.chwrite 3 2039) (inRun 0x20 7 .issue))).map
      (fun t => (t.port.wrReq, t.port.wrCh, t.port.wrOn, t.port.wrOff)) = some (true, 3, 0, 2039) := by decide

/-- The lane's channel: value 254 on the blue lane of `CHANNELS` 0x210 is `(2, 0, 16)`. -/
theorem test_issue :
    let s := inRun 0x20 7 .issue
    (nextState (stepEvent .engine { s with eng := { s.eng with act := [.wr .b 254] } })).map
      (fun t => (t.port.wrCh, t.port.wrOn, t.port.wrOff, statusWord t)) = some (2, 0, 16, 0x000080F2) := by decide

def converting : State := { State.reset with convIn := ⟨255, 0, 128⟩ }

theorem test_todutyR : (nextState (exec .todutyR converting)).map (·.port.hRdata) = some 0 := by decide
theorem test_todutyG : (nextState (exec .todutyG converting)).map (·.port.hRdata) = some 4095 := by decide
theorem test_todutyB : (nextState (exec .todutyB converting)).map (·.port.hRdata) = some 2039 := by decide

/-- Entries of the table of spec 95 L2.1. -/
theorem test_toDuty :
    [0#8, 1, 9, 16, 17, 128, 143, 200, 247, 254, 255].map toDuty =
      [4095, 4079, 3950, 3838, 3822, 2039, 1799, 883, 128, 16, 0] := by decide

/-- `ChWrite(3, 0, toDuty(17))` writes `00 00 EE 0E` (spec 95 L2.6). -/
theorem test_chWriteOps :
    chWriteOps 3 0 3822 =
      [.write (.led 3 0) 0, .write (.led 3 1) 0, .write (.led 3 2) 0xEE, .write (.led 3 3) 0x0E] := by decide

/-- The third request of R185, `ChWrite(2, 0, 2039)`: `(B+8,0x00) (B+9,0x00) (B+10,0xF7) (B+11,0x07)` at the chip's
address, whatever `B = P_BASE_REG` is. -/
theorem test_busTransfer :
    (chWriteOps 2 0 2039).filterMap busTransfer =
      [.writeRegister 0x40 (Config.pBaseReg + 8) 0x00, .writeRegister 0x40 (Config.pBaseReg + 9) 0x00,
       .writeRegister 0x40 (Config.pBaseReg + 10) 0xF7, .writeRegister 0x40 (Config.pBaseReg + 11) 0x07] := rfl

/-- After the sleep of `setFrequency` no channel register is known (U18); the frequency and the prescale are set. -/
theorem test_setFrequency :
    (nextState (stepEvent (.driverSetFrequency 60)
      { State.reset with drv := { State.reset.drv with ready := true, leds := [(0, 7)] } })).map
        (fun t => (t.drv.preScale, t.drv.frequency, t.drv.leds)) = some (101, 60, []) := rfl

/-- Spec 95 L2.10. -/
theorem test_prescale :
    [24, 50, 60, 100, 200, 1000, 1526].map prescale =
      [some 253, some 121, some 101, some 60, some 30, some 5, some 3] ∧ prescale 23 = none := by decide

/-! ### The host port (spec 95 L2.3, L2.8) -/

theorem test_write_masks :
    (nextState (hostWriteStep 0x008 0xFFFFFFFF State.reset)).map (memRead 0x008) = some 0x000000FF ∧
    (nextState (hostWriteStep 0x01C 0x00012345 State.reset)).map (memRead 0x01C) = some 0x00002345 ∧
    (nextState (hostWriteStep 0x100 0xFF123456 State.reset)).map (memRead 0x100) = some 0x00123456 ∧
    (nextState (hostWriteStep 0x2FC 0xFFFFFFFF State.reset)).map (memRead 0x2FC) = some 0xFFFFFFFF ∧
    (nextState (hostWriteStep 0x00A 0x00000055 State.reset)).map (memRead 0x008) = some 0 := by decide

theorem test_invalidate : statusAfter (hostWriteStep 0x018 0 (readyState 0x10 3)) = some 0 := by decide

theorem test_ignored_write : statusAfter (hostWriteStep 0x018 9 (inRun 0x10 3 .begin)) = some 0x000020B2 := by decide

theorem test_structural_checks :
    (let c (flags : BitVec 8) (channels : BitVec 12) (seqLen intLen : BitVec 7) : Option Word :=
      statusAfter (exec .configure
        { State.reset with cfg := { State.reset.cfg with
            flags := flags, channels := channels, seqLen := seqLen, intLen := intLen } })
    c 0x10 0x210 0 0 = some 0x206 ∧ c 0x10 0x210 64 0 = some 0x0B1 ∧ c 0x10 0x210 65 0 = some 0x306 ∧
    c 0x10 0x110 0 0 = some 0x406 ∧ c 0x84 0x210 65 0 = some 0x0D1 ∧ c 0x90 0x210 0 65 = some 0x206 ∧
    c 0x89 0x210 0 65 = some 0x606 ∧ c 0x00 0xFED 0 0 = some 0x106 ∧ c 0x20 0xF0F 0 0 = some 0x406) := by decide

/-- L1.8: a failing third write ends the run with the blue lane not updated. -/
theorem test_bus_error :
    let s := inRun 0x10 3 .waitWr
    let s := { s with
      eng := { s.eng with act := [.wr .r 128, .wr .g 128, .wr .b 128, .wt 5], p := 2, wrb := ⟨.b, 128, 2, 2039⟩, fc := 4 }
      port := ⟨true, 2, 0, 2039, false, 0⟩
      curColor := ⟨128, 128, 0⟩ }
    (nextState (stepEvent (.driver true) s)).map
      (fun t => (statusWord t, readReg .frameRemain t, readReg .curColor t, t.trace)) =
        some (0x000000B5, 4, 0x00008080, [.write 2 0 2039 false]) := by decide

/-- The placed words run: every format's first step after reset. -/
theorem test_placed :
    statusAfter (step (State.reset.withFetchWord 32 2)) = some 0x00001000 ∧
    builtFrame (step (State.reset.withFetchWord 8 7)) =
      some [.wr .r 0, .wr .g 0, .wr .b 0, .wt 0, .wr .r 0, .wr .g 0, .wr .b 0, .wt 0] ∧
    (nextState (step (State.reset.withFetchWord 24 0x7F7))).map (·.port.wrOff) = some 2039 ∧
    (nextState (step (State.reset.withFetchWord 16 0x03C))).map (·.port.hRdata) = some 0xFFF := by decide

/-! ### Witnesses: for each obligation with hypotheses, a state and operands that meet them together -/

/-- The `STATE`s in which `START` begins a run. -/
def inState (st : RunState) : State :=
  { configured2 0x20 with status := ⟨st, if stateHasMode st then 7 else 0, stateHasMode st, .none, false, false⟩ }

/-- A run of the Regular mode that performs its frame, a blink between the fixed colour, black, and black. -/
def blinking (p : Phase) : State :=
  { inRun 0x20 7 p with eng := { (inRun 0x20 7 p).eng with act := blink black 100 } }

/-- A run waiting for the answer of its second write, green 0 on channel 1: `toDuty(0)` is 4095. -/
def waiting : State :=
  { blinking .waitWr with
    eng := { (blinking .waitWr).eng with p := 1, wrb := ⟨.g, 0, 1, 4095⟩ }
    port := ⟨true, 1, 0, 4095, false, 0⟩ }

/-- A run waiting for `n` ticks. -/
def ticking (n : Nat) : State :=
  { inRun 0x20 7 .waitTick with
    eng := { (inRun 0x20 7 .waitTick).eng with
      act := [.wt (BitVec.ofNat 32 n)], dly := BitVec.ofNat 32 n, dlyActive := true }
    tape := List.replicate n .tick }

/-- A run that has `q` of the frame's draws. -/
def drawing (flags : BitVec 8) (mode : BitVec 3) (dl : List Nat) (q : Nat) : State :=
  { inRun flags mode .draw with
    eng := { (inRun flags mode .draw).eng with dl := dl, q := q }
    port := { (inRun flags mode .draw).port with rndReq := true } }

/-- The same state with one step on its tape. -/
def offered (e : Event) (s : State) : State := { s with tape := [e] }

theorem inv_inState {st : RunState} (h : st ≠ .running) (h' : st ≠ .configError) (l : List Event) :
    PabInv { inState st with tape := l } := by
  refine ⟨⟨?_, ?_, ?_, ?_, ?_, ?_, ?_⟩, ⟨?_, ?_, ?_, ?_⟩, ⟨?_, ?_, ?_, ?_, ?_, ?_, ?_, ?_⟩, ⟨?_, ?_, ?_, ?_⟩, ?_, ?_, ?_⟩ <;>
    simp only [inState, configured2, State.reset, Engine.reset] <;> cases st <;>
    simp_all [stateHasMode, performing, memInWindows, Memory.wf, cellsRiseFrom] <;> decide

theorem inv_blinking {p : Phase} (h : p = .begin ∨ p = .issue ∨ p = .finish) (stop : Bool) (c : Color) (l : List Event) :
    PabInv { blinking p with
      cfg := { (blinking p).cfg with startColor := c }
      eng := { (blinking p).eng with stop := stop }
      tape := l } := by
  refine ⟨⟨?_, ?_, ?_, ?_, ?_, ?_, ?_⟩, ⟨?_, ?_, ?_, ?_⟩, ⟨?_, ?_, ?_, ?_, ?_, ?_, ?_, ?_⟩, ⟨?_, ?_, ?_, ?_⟩, ?_, ?_, ?_⟩ <;>
    simp only [blinking, inRun, configured2, State.reset, Engine.reset] <;> rcases h with rfl | rfl | rfl <;>
    simp [stateHasMode, performing, memInWindows, Memory.wf, cellsRiseFrom] <;>
    first
    | decide
    | rfl
    | exact (show _ = resolve (configured2 0x20).cfg from rfl).trans (by decide)
    | exact fun h => absurd h (by decide)

theorem inv_waiting (l : List Event) : PabInv { waiting with tape := l } := by
  refine ⟨⟨?_, ?_, ?_, ?_, ?_, ?_, ?_⟩, ⟨?_, ?_, ?_, ?_⟩, ⟨?_, ?_, ?_, ?_, ?_, ?_, ?_, ?_⟩, ⟨?_, ?_, ?_, ?_⟩, ?_, ?_, ?_⟩ <;>
    simp [waiting, blinking, inRun, configured2, State.reset, Engine.reset, stateHasMode, performing, memInWindows,
      Memory.wf, cellsRiseFrom] <;> first | decide | rfl | exact fun h => absurd h (by decide)

theorem inv_reset (l : List Event) : PabInv { State.reset with tape := l } := by
  refine ⟨⟨?_, ?_, ?_, ?_, ?_, ?_, ?_⟩, ⟨?_, ?_, ?_, ?_⟩, ⟨?_, ?_, ?_, ?_, ?_, ?_, ?_, ?_⟩, ⟨?_, ?_, ?_, ?_⟩, ?_, ?_, ?_⟩ <;>
    simp [State.reset, Engine.reset, stateHasMode, performing, memInWindows, Memory.wf, cellsRiseFrom]

/-- The step of `s` leads to the state `st`, a change. -/
def Changes (s : State) (st : RunState) : Prop :=
  ∃ t, step s = .next t ∧ t.status.state = st ∧ t.status.state ≠ s.status.state

theorem test_witness_DecodeOfEncode :
    (Instr.chwrite 0 4095).wellFormed = true ∧ (Instr.chwrite 15 0).wellFormed = true ∧
      Instr.start.wellFormed = true := by decide

theorem test_witness_EncodeOfDecode :
    decode .cmd 4 = .ok .clrerr ∧ decode .mode 0xFFFFFFFF = .ok .mRegular ∧ decode .duty 0xFFFFF044 = .ok .todutyB ∧
      decode .out 0xFF000FFF = .ok (.chwrite 15 4095) := by decide

/-- A fetched command, converter read, frame operation at BEGIN, at END and at the last draw, and write action. -/
theorem test_witness_StepRunsTheFetchedOperation :
    decode .cmd 4 = .ok .clrerr ∧ decode .duty ((0x03C : BitVec 12).setWidth 32) = .ok .todutyR ∧
    ((inRun 0x20 7 .begin).status.state = .running ∧ (inRun 0x20 7 .begin).eng.phase = .begin) ∧
    ((inRun 0x20 7 .finish).status.state = .running ∧ (inRun 0x20 7 .finish).eng.phase = .finish) ∧
    (let s := drawing 0x08 6 [256, 256, 256, 1000] 3
     s.eng.phase = .draw ∧ s.port.rndReq = true ∧ s.eng.dl[s.eng.q]? = some 1000 ∧ s.eng.q + 1 = s.eng.dl.length) ∧
    (let s := { inRun 0x20 7 .issue with eng := { (inRun 0x20 7 .issue).eng with act := [.wr .r 7] } }
     s.status.state = .running ∧ s.eng.phase = .issue ∧ s.eng.act[s.eng.p]? = some (.wr .r 7)) := by decide

theorem test_witness_ToDutyLaws : toDutyInt 7 = toDutyInt 7 ∧ (254 : Nat) ≤ 254 ∧ (255 : Nat) ≤ 255 := by decide

theorem test_witness_ConverterFollowsConvIn :
    ∃ t, step (offered (lineWr .convIn 0xFF) (inRun 0x10 3 .begin)) = .next t ∧
      t.convIn ≠ (offered (lineWr .convIn 0xFF) (inRun 0x10 3 .begin)).convIn := ⟨_, rfl, by decide⟩

/-- The misaligned and reserved addresses at the ends of their ranges, and their neighbours, which are neither. -/
theorem test_witness_MisalignedReservedAndReadOnly :
    (let off (a : BitVec 12) : Prop :=
      a.extractLsb' 0 2 ≠ 0 ∨ (a.extractLsb' 0 2 = 0 ∧ (0x04C ≤ a.toNat ∧ a.toNat < 0x100 ∨ 0x300 ≤ a.toNat))
    off 0x001 ∧ off 0xFFF ∧ off 0x04C ∧ off 0x0FC ∧ off 0x300 ∧ off 0xFFC ∧
      ¬ off 0x000 ∧ ¬ off 0x048 ∧ ¬ off 0x100 ∧ ¬ off 0x2FC) := by decide

theorem test_witness_ConfigurationWriteIsTaken :
    (∀ r ∈ [Reg.flags, .channels, .rgb, .startColor, .interval, .frameCount, .seqLen, .intLen, .seqRam 0, .seqRam 63,
      .intRam 0, .intRam 63], regAccess r = .cfg) ∧
    State.reset.status.state ≠ .running ∧ (inState .done).status.state ≠ .running := by decide

/-- The bytes next to those of an entry are not the entry's. -/
theorem test_witness_ConfigurationWrite_bytes :
    ¬ storedByte (.seqRam 0) 0xFF ∧ ¬ storedByte (.seqRam 0) 0x104 ∧ ¬ storedByte (.intRam 63) 0x2FB ∧
      ¬ storedByte (.intRam 63) 0x300 ∧ ¬ storedByte .flags 0x008 := by
  refine ⟨?_, ?_, ?_, ?_, ?_⟩ <;> simp [storedByte]

theorem test_witness_ConfigurationWriteWhileRunning :
    regAccess (.seqRam 63) = .cfg ∧ regAccess .interval = .cfg ∧ (inRun 0x10 3 .begin).status.state = .running := by
  decide

theorem test_witness_StrobesAndAccessWidth :
    (⟨true, false, 0, 0, .byte⟩ : HostAccess).size ≠ .word ∧ (⟨true, false, 0, 0, .byte⟩ : HostAccess).wr = true ∧
    (⟨false, true, 0, 0, .half⟩ : HostAccess).size ≠ .word ∧ (⟨false, true, 0, 0, .half⟩ : HostAccess).rd = true ∧
    (⟨false, false, 0, 0, .half⟩ : HostAccess).wr = false ∧ (⟨false, false, 0, 0, .half⟩ : HostAccess).rd = false := by
  decide

/-- `CANCEL` inside and outside a run; `START` in each of its four states and in the other three. -/
theorem test_witness_CancelAndStart :
    (inRun 0x10 3 .begin).status.state = .running ∧ (inState .done).status.state ≠ .running ∧
    (∀ st ∈ [RunState.ready, .done, .cancelled, .busError],
      (inState st).status.state ∈ [RunState.ready, .done, .cancelled, .busError]) ∧
    (∀ st ∈ [RunState.unconfigured, .running, .configError],
      (inState st).status.state ∉ [RunState.ready, .done, .cancelled, .busError]) := by decide

/-- One configuration for each failing check, at the lengths 0, 64, 65 and 127. -/
theorem test_witness_ConfigureReportsTheFirstFailure :
    (let ok (f : BitVec 8) (ch : BitVec 12) (l m : BitVec 7) (p : CfgErr) : Prop :=
      nextState (exec .configure
        { State.reset with cfg := { State.reset.cfg with flags := f, channels := ch, seqLen := l, intLen := m } }) =
      some (configFailed p
        { State.reset with cfg := { State.reset.cfg with flags := f, channels := ch, seqLen := l, intLen := m } })
    ok 0x10 0x200 0 0 .channelConflict ∧ ok 0x10 0x010 1 0 .channelConflict ∧ ok 0x10 0x110 1 0 .channelConflict ∧
    ok 0x90 0x210 0 65 .emptySequence ∧ ok 0x90 0x210 65 65 .seqMalformed ∧ ok 0x90 0x210 127 0 .seqMalformed ∧
    ok 0x90 0x210 64 65 .intMalformed ∧ ok 0x80 0x210 0 127 .intMalformed ∧ ok 0x89 0x210 0 64 .chaosSoft ∧
    ok 0x09 0x210 65 65 .chaosSoft ∧ ok 0x03 0x210 0 0 .noMode ∧ ok 0xC0 0x210 0 64 .noMode) := by decide

/-- One configuration for each mode, at the lengths 1 and 64. -/
theorem test_witness_ConfigureResolvesByPriority :
    (let ok (f : BitVec 8) (l m : BitVec 7) (mode : BitVec 3) : Prop :=
      nextState (exec .configure { State.reset with cfg := { State.reset.cfg with flags := f, seqLen := l, intLen := m } }) =
      some (configReady mode { State.reset with cfg := { State.reset.cfg with flags := f, seqLen := l, intLen := m } })
    ok 0x13 1 0 0 ∧ ok 0x92 64 64 1 ∧ ok 0x3D 64 127 2 ∧ ok 0x10 1 0 3 ∧ ok 0x05 0 127 4 ∧ ok 0x84 127 64 5 ∧
      ok 0x28 0 0 6 ∧ ok 0x20 0 0 7 ∧ ok 0x23 0 0 7) := by decide

theorem test_witness_ResolutionIsPure :
    (let s := configured2 0x20
     let s' := { State.reset with cfg := { s.cfg with interval := 1, rgb := ⟨1, 2, 3⟩ }, curColor := ⟨9, 9, 9⟩ }
     s.status.state ≠ .running ∧ s'.status.state ≠ .running ∧ s.cfg.flags = s'.cfg.flags ∧
      s.cfg.channels = s'.cfg.channels ∧ s.cfg.seqLen = s'.cfg.seqLen ∧ s.cfg.intLen = s'.cfg.intLen ∧ s ≠ s') := by
  decide

theorem test_witness_StopCheck :
    (let s := inRun 0x20 7 .begin
     let s := { s with eng := { s.eng with stop := true } }
     isMode .mRegular = true ∧ isMode .mSeqSoftRandom = true ∧ s.eng.phase = .begin ∧ s.eng.stop = true) := by decide

/-- For the eight statements about a mode's frame: the three points of a frame, with the draws of the sequence modes at the last entry, 63, and the
lengths 1 and 64; the Random mode's END also with `INT_PRESENT` 0 and `INT_LEN` 127. -/
theorem test_witness_Frames :
    (let s := inRun 0x13 0 .begin
     s.eng.phase = .begin ∧ s.eng.stop = false ∧ 1 ≤ s.cfg.seqLen.toNat ∧ s.cfg.seqLen.toNat ≤ 64) ∧
    (let s := withDraws [64, 64] #v[63, 63, 0, 0, 0, 0] (inRun 0x13 0 .begin)
     s.eng.phase = .draw ∧ s.eng.q = s.eng.dl.length ∧ s.eng.dv[0].toNat < 64 ∧ s.eng.first = true ∧
      s.eng.dv[1].toNat < 64) ∧
    (let s := inRun 0x10 3 .finish
     let at_ (l : BitVec 7) : State := { s with cfg := { s.cfg with seqLen := l, intLen := l } }
     s.eng.phase = .finish ∧ 1 ≤ (at_ 1).cfg.seqLen.toNat ∧ (at_ 1).cfg.seqLen.toNat ≤ 64 ∧
      1 ≤ (at_ 64).cfg.seqLen.toNat ∧ (at_ 64).cfg.seqLen.toNat ≤ 64) ∧
    (let s := inRun 0x84 5 .finish
     let at_ (f : BitVec 8) (l : BitVec 7) : State := { s with cfg := { s.cfg with flags := f, intLen := l } }
     s.eng.phase = .finish ∧ ((at_ 0x84 64).cfg.flags.getLsbD 7 = true → (at_ 0x84 64).cfg.intLen.toNat ≤ 64) ∧
      ((at_ 0x04 127).cfg.flags.getLsbD 7 = true → (at_ 0x04 127).cfg.intLen.toNat ≤ 64)) ∧
    (let s := withDraws [256, 256, 256, 1000] #v[255, 0, 255, 999, 0, 0] (inRun 0x08 6 .begin)
     s.eng.phase = .draw ∧ s.eng.q = s.eng.dl.length) := by decide

theorem test_witness_FrameOperationsLeaveTheRest :
    isMode .mRegular = true ∧ ∃ t, exec .mRegular (inRun 0x20 7 .begin) = .next t := ⟨rfl, _, rfl⟩

/-- A draw that is not the last, and the last. -/
theorem test_witness_RandomAnswer :
    (let s := drawing 0x08 6 [256, 256, 256, 1000] 0
     s.eng.phase = .draw ∧ s.port.rndReq = true ∧ s.eng.dl[s.eng.q]? = some 256 ∧ s.eng.q + 1 ≠ s.eng.dl.length) ∧
    (let s := drawing 0x13 0 [1] 0
     s.eng.phase = .draw ∧ s.port.rndReq = true ∧ s.eng.dl[s.eng.q]? = some 1 ∧ s.eng.q + 1 = s.eng.dl.length) := by
  decide

/-- The end of the list, a write action, a wait, and a wait of 0 ticks. -/
theorem test_witness_IssueStep :
    (let s (l : List Action) : State := { inRun 0x20 7 .issue with eng := { (inRun 0x20 7 .issue).eng with act := l } }
     (s []).status.state = .running ∧ (s []).eng.phase = .issue ∧ (s []).eng.p = (s []).eng.act.length ∧
      (s [.wr .b 9]).eng.act[(s [.wr .b 9]).eng.p]? = some (.wr .b 9) ∧
      (s [.wt 1]).eng.act[(s [.wt 1]).eng.p]? = some (.wt 1) ∧
      (s [.wt 0]).eng.act[(s [.wt 0]).eng.p]? = some (.wt 0)) := by decide

theorem test_witness_DriverAnswer :
    waiting.eng.phase = .waitWr ∧ waiting.port.wrReq = true ∧ waiting.drv.ready = true := by decide

theorem test_witness_InputsOutsideTheirPhase :
    (inRun 0x20 7 .issue).eng.phase ≠ .waitWr ∧ waiting.eng.phase ≠ .waitTick ∧ waiting.eng.phase ≠ .draw ∧
      State.reset.port.wrReq = false ∧ State.reset.port.rndReq = false := by decide

theorem test_witness_WaitLastsItsTicks :
    (ticking 1).eng.phase = .waitTick ∧ (ticking 1).eng.dly.toNat = 1 ∧
      (ticking 1).tape = List.replicate 1 .tick ++ [] ∧
    (ticking 3).eng.phase = .waitTick ∧ (ticking 3).eng.dly.toNat = 3 ∧
      (ticking 3).tape = List.replicate 3 .tick ++ [] := by decide

theorem test_witness_OneClockEdge :
    (⟨true, some ⟨true, false, 0, 3, .word⟩, some false, true, some 7, true⟩ : Edge).rst = true ∧
    (⟨false, none, some false, false, some 7, false⟩ : Edge).rst = false ∧
    waiting.status.state = .running ∧ waiting.eng.phase = .waitWr ∧ waiting.port.wrReq = true ∧
    waiting.drv.ready = true ∧
    regAccess (.intRam 63) = .cfg := by decide

/-- An upward ramp, a downward one and an unchanged lane, over the whole range; two neighbouring writes of each. -/
theorem test_witness_Ramps :
    (0 : Byte) ≠ 255 ∧ (5 : Byte) = 5 ∧
    ((ramp .r 5 7 9)[2 * 1]? = some (.wr .r 6) ∧ (ramp .r 5 7 9)[2 * 1 + 2]? = some (.wr .r 7)) ∧
    ((ramp .b 7 5 9)[2 * 0]? = some (.wr .b 7) ∧ (ramp .b 7 5 9)[2 * 0 + 2]? = some (.wr .b 6)) := by decide

theorem test_witness_PerformingAFrame :
    (let acts : List Action := [.wr .r 5, .wt 2, .wr .b 0, .wt 0]
     let s := { inRun 0x20 7 .issue with
       eng := { (inRun 0x20 7 .issue).eng with act := acts }, tape := performEvents acts ++ [Event.reset] }
     s.status.state = .running ∧ s.eng.phase = .issue ∧ s.eng.p = 0 ∧ s.port.wrReq = false ∧ s.drv.ready = true ∧
      s.tape = performEvents s.eng.act ++ [Event.reset]) := by decide

/-- A Regular run of two frames. -/
def regularRun : State :=
  { readyState 0x20 7 with
    cfg := { (configured2 0x20).cfg with interval := 2, frameCount := 1, rgb := ⟨255, 0, 0⟩ }
    tape := .host ⟨true, false, 0x000, 2, .word⟩ :: framesEvents (blink ⟨255, 0, 0⟩ 2) 2 ++ [] }

theorem test_witness_RegularRun :
    regularRun.status.state = .ready ∧ regularRun.status.mode = 7 ∧ regularRun.port.wrReq = false ∧
      regularRun.port.rndReq = false ∧ regularRun.drv.ready = true ∧
      regularRun.tape = .host ⟨true, false, 0x000, 2, .word⟩ ::
        framesEvents (blink regularRun.cfg.rgb regularRun.cfg.interval) (regularRun.cfg.frameCount.toNat + 1) ++ [] := by
  decide

/-- A step into each of the seven states, from a state with the invariants. -/
theorem test_witness_StateTransitions :
    (PabInv (offered .reset waiting) ∧ Changes (offered .reset waiting) .unconfigured) ∧
    (PabInv (offered (lineWr .interval 9) (inState .done)) ∧
      Changes (offered (lineWr .interval 9) (inState .done)) .unconfigured) ∧
    (PabInv (offered (lineCmd .configure) (inState .unconfigured)) ∧
      Changes (offered (lineCmd .configure) (inState .unconfigured)) .ready) ∧
    (PabInv (offered (lineCmd .configure) State.reset) ∧
      Changes (offered (lineCmd .configure) State.reset) .configError) ∧
    (PabInv (offered (lineCmd .start) (inState .busError)) ∧
      Changes (offered (lineCmd .start) (inState .busError)) .running) ∧
    (PabInv (offered .engine (blinking .finish)) ∧ Changes (offered .engine (blinking .finish)) .done) ∧
    (∃ s, PabInv s ∧ Changes s .cancelled) ∧
    (PabInv (offered (.driver true) waiting) ∧ Changes (offered (.driver true) waiting) .busError) :=
  ⟨⟨inv_waiting _, _, rfl, rfl, by decide⟩, ⟨inv_inState (by decide) (by decide) _, _, rfl, rfl, by decide⟩,
   ⟨inv_inState (by decide) (by decide) _, _, rfl, rfl, by decide⟩, ⟨inv_reset _, _, rfl, rfl, by decide⟩,
   ⟨inv_inState (by decide) (by decide) _, _, rfl, rfl, by decide⟩,
   ⟨inv_blinking (.inr (.inr rfl)) false black _, _, rfl, rfl, by decide⟩,
   ⟨_, inv_blinking (.inl rfl) true black [.engine], _, rfl, rfl, by decide⟩, ⟨inv_waiting _, _, rfl, rfl, by decide⟩⟩

/-- Each sticky bit set, kept and cleared by a step. -/
theorem test_witness_StickyBits :
    (let bits (s : State) : Option (Bool × Bool) :=
      (nextState (step s)).map fun t => (t.status.cmdErr, t.status.wrIgnored)
    bits (offered (lineWr .cmd 5) State.reset) = some (true, false) ∧
    bits (offered (lineCmd .configure) waiting) = some (true, false) ∧
    bits (offered (lineWr .flags 5) waiting) = some (false, true) ∧
    bits (offered (lineCmd .nop) (withCmdErr waiting)) = some (true, false) ∧
    bits (offered (lineCmd .clrerr) (withCmdErr waiting)) = some (false, false) ∧
    bits (offered .reset (withCmdErr waiting)) = some (false, false)) := by decide

/-- A request that rises, and one that is held over a step. -/
theorem test_witness_RequestsComeFromWriteActions :
    (let s := { offered .engine (inRun 0x20 7 .issue) with
        eng := { (inRun 0x20 7 .issue).eng with act := [.wr .r 7] } }
     s.port.wrReq = false ∧ (nextState (step s)).map (·.port.wrReq) = some true) ∧
    (waiting.port.wrReq = true ∧ (nextState (step (offered .tick waiting))).map (·.port.wrReq) = some true) ∧
    PabInv (offered .tick waiting) := by
  refine ⟨by decide, by decide, inv_waiting _⟩

theorem test_witness_ResetStep : (offered .reset waiting).tape = .reset :: [] := rfl

theorem test_witness_EveryStepKeepsTheInvariants :
    PabInv (offered (.driver false) waiting) ∧ ∃ t, step (offered (.driver false) waiting) = .next t :=
  ⟨inv_waiting _, _, rfl⟩

/-- Each refusal, and a next state of a `setup()` first and repeated outside a run, from states with the invariants. -/
theorem test_witness_StepsStopOnlyOnABrokenDuty :
    (PabInv (offered (.host ⟨true, false, 8, 1, .byte⟩) waiting) ∧
      step (offered (.host ⟨true, false, 8, 1, .byte⟩) waiting) = .refused .narrowAccess) ∧
    (PabInv (offered .driverSetup State.reset) ∧ ∃ t, step (offered .driverSetup State.reset) = .next t) ∧
    (PabInv (offered .driverSetup (inState .done)) ∧ ∃ t, step (offered .driverSetup (inState .done)) = .next t) ∧
    (PabInv (offered .driverSetup waiting) ∧ step (offered .driverSetup waiting) = .refused .setupDuringRun) ∧
    (PabInv (offered (.driverSetFrequency 60) State.reset) ∧
      step (offered (.driverSetFrequency 60) State.reset) = .refused .driverNotReady) ∧
    (PabInv (offered (.driverSetFrequency 23) waiting) ∧
      step (offered (.driverSetFrequency 23) waiting) = .refused .prescaleRange) :=
  ⟨⟨inv_waiting _, rfl⟩, ⟨inv_reset _, _, rfl⟩, ⟨inv_inState (by decide) (by decide) _, _, rfl⟩, ⟨inv_waiting _, rfl⟩,
    ⟨inv_reset _, rfl⟩, ⟨inv_waiting _, rfl⟩⟩

/-- A state outside a run, with everything but the DRIVER's `setup()` done. -/
def notSetUp (st : RunState) : State := { inState st with drv := State.reset.drv }

/-- The four states in which a `START` before `setup()` has no move, and one in which it is only rejected. -/
theorem test_witness_StartBeforeSetup :
    (∀ st ∈ [RunState.ready, .done, .cancelled, .busError],
      (notSetUp st).status.state ∈ [RunState.ready, .done, .cancelled, .busError] ∧ (notSetUp st).drv.ready = false ∧
      refusalOf (hostWriteStep 0x000 2 (notSetUp st)) = some .startBeforeSetup) ∧
    statusAfter (hostWriteStep 0x000 2 (notSetUp .unconfigured)) = some 0x00001000 ∧
    (let s := { waiting with drv := State.reset.drv }
     s.eng.phase = .waitWr ∧ s.port.wrReq = true ∧ s.drv.ready = false) := by decide

theorem test_witness_CommandWordDispatch :
    ¬ runBeforeSetup 2 (inState .ready) ∧ ¬ runBeforeSetup 2 (notSetUp .unconfigured) ∧
      ¬ runBeforeSetup 1 (notSetUp .ready) := by
  refine ⟨fun h => ?_, fun h => ?_, fun h => ?_⟩ <;> revert h <;> simp [runBeforeSetup, notSetUp, inState, configured2]

/-- A run that a failing answer ends, one that a reset ends, and one that goes on. -/
theorem test_witness_RunEnds :
    PabInv (offered (.driver true) waiting) ∧ PabInv (offered .reset waiting) ∧ PabInv (offered .tick waiting) ∧
    waiting.status.state = .running ∧
    ((observeRun 1 (offered (.driver true) waiting)).map (·.status) = some 0x000000F5 ∧
      (observeRun 1 (offered .reset waiting)).map (·.status) = some 0 ∧
      observeRun 1 (offered .tick waiting) = none) :=
  ⟨inv_waiting _, inv_waiting _, inv_waiting _, rfl, by decide⟩

theorem test_witness_InvariantsOfR50 :
    PabInv (offered .tick waiting) ∧ waiting.status.state = .running ∧
      ∃ t, step (offered .tick waiting) = .next t ∧ t.status.state = .running := ⟨inv_waiting _, rfl, _, rfl, rfl⟩

/-- Two runs of the Regular mode that differ in what that mode does not read. -/
theorem test_witness_RunReadsOnlyItsConfiguration :
    (let s := blinking .begin
     let s' := { s with cfg := { s.cfg with startColor := ⟨1, 2, 3⟩ } }
     PabInv s ∧ PabInv s' ∧ s ≠ s' ∧ s.status.state = .running ∧ s.status = s'.status ∧ s.eng = s'.eng ∧
      s.port = s'.port ∧ s.curColor = s'.curColor ∧ s.trace = s'.trace ∧
      sameReads (decodeMode s.status.mode) s s' ∧ ∃ t, stepEvent .engine s = .next t) :=
  ⟨inv_blinking (.inl rfl) false black [], inv_blinking (.inl rfl) false ⟨1, 2, 3⟩ [], by decide, rfl, rfl, rfl, rfl, rfl, rfl,
    ⟨rfl, rfl, rfl⟩, _, rfl⟩

/-- The hypotheses of both clauses of SetupPreparesTheChip are met, and what each says happens. -/
theorem test_witness_SetupPreparesTheChip :
    waiting.status.state = .running ∧ State.reset.status.state ≠ .running ∧
    stepEvent .driverSetup waiting = .refused .setupDuringRun ∧
    ∃ t, stepEvent .driverSetup State.reset = .next t :=
  ⟨by decide, by decide, rfl, _, rfl⟩

/-- A step outside a run, a failing answer, and a reset with and without an outstanding request. -/
theorem test_witness_TheChip :
    (PabInv (offered (lineCmd .clrerr) (inState .done)) ∧ (inState .done).status.state ≠ .running ∧
      ∃ t, step (offered (lineCmd .clrerr) (inState .done)) = .next t) ∧
    (waiting.eng.phase = .waitWr ∧ waiting.port.wrReq = true ∧ waiting.drv.ready = true ∧
      (2 : BitVec 4) ≠ waiting.port.wrCh) ∧ State.reset.port.wrReq = false :=
  ⟨⟨inv_inState (by decide) (by decide) _, by decide, _, rfl⟩, by decide, rfl⟩

/-- R245: with one register of the four written, on-low is the request's, the other three what the channel held. -/
theorem test_abandonWrite :
    (let d := runBusOps (chWriteOps 1 0xABC 0x123) State.reset.drv
     let d' := abandonWrite 1 1 0 0xFFF d
     [0, 1, 2, 3].map (ledByte d' 1) = [0x00, 0x0A, 0x23, 0x01]) := by decide

/-- An accepted write with the DRIVER ready. -/
theorem test_witness_ChannelWriteBytes :
    waiting.drv.ready = true ∧ waiting.eng.phase = .waitWr ∧ waiting.port.wrReq = true ∧
      (2 : BitVec 4) ≠ waiting.port.wrCh := by decide

/-- The frequencies at the ends of the 8-bit register: 24 Hz gives 253 and 23 Hz nothing (spec 95 L2.10); 12207 Hz, with
quotient 0.5000013, gives 0, and 12208 Hz, with 0.49996, nothing. -/
theorem test_witness_SetFrequency :
    prescale 24 = some 253 ∧ prescale 23 = none ∧ prescale 12207 = some 0 ∧ prescale 12208 = none ∧
      (inState .ready).drv.ready = true ∧ State.reset.drv.ready = false := by decide

end Sys2Proof.Tests
end

section
/-! PROOFS. The tape's head, and where each agent fetches its operation (R7, R64, R103, R131 to R133; O4, O58). -/

namespace Sys2Proof.Proofs

open Sys2Proof.Machine Sys2Proof.Safety Sys2Proof.Laws

theorem popped_of_tape_nil {s : State} (h : s.tape = []) : popped s = s := by
  simp only [popped, h, List.tail_nil]; rw [← h]

theorem step_eq_stepEvent (s : State) : step s = stepEvent (nextEvent s) (popped s) := by
  cases h : s.tape with
  | nil => rw [step_of_tape_nil h, popped_of_tape_nil h, nextEvent, h]; rfl
  | cons e rest => rw [step_of_tape_cons h, nextEvent_of_tape_cons h, popped, h]; rfl

/-- The step of a host write alone is `hostWrite` (R60). -/
theorem hostWriteStep_eq (a : BitVec 12) (v : Word) (s : State) : hostWriteStep a v s = hostWrite a v s := rfl

/-- The step of a host read alone is `hostRead` (R60). -/
theorem hostReadStep_eq (a : BitVec 12) (s : State) : hostReadStep a s = hostRead a s := rfl

/-- A decoded CMD word is executed in the step of its write (R64), unless it owes `setup()` (R14, U8). -/
theorem hostWrite_cmd {w : Word} {i : Instr} {s : State} (hi : decode .cmd w = .ok i) :
    hostWrite 0x000 w s = if setupOwed i s then .refused .startBeforeSetup else exec i s := by
  have ha : regAt 0x000 = some .cmd := regAt_regOffset .cmd
  rw [hostWrite, if_pos ha, hi]

theorem engineStep_of_frame {s : State} (hr : s.status.state = .running)
    (hp : s.eng.phase = .begin ∨ s.eng.phase = .finish) : engineStep s = exec (decodeMode s.status.mode) s := by
  rw [engineStep, if_pos hr]
  rcases hp with hp | hp <;> rw [hp]

theorem engineStep_of_issue {s : State} (hr : s.status.state = .running) (hp : s.eng.phase = .issue) :
    engineStep s = issueStep s := by
  rw [engineStep, if_pos hr, hp]

theorem issueStep_of_end {s : State} (ha : s.eng.act[s.eng.p]? = none) :
    issueStep s = .next { s with eng := { s.eng with phase := .finish } } := by
  rw [issueStep, ha]

theorem issueStep_of_write {x : Lane} {v : Byte} {s : State} (ha : s.eng.act[s.eng.p]? = some (.wr x v)) :
    issueStep s = exec (.chwrite (channelOf x s.cfg.channels) (toDuty v)) (latchWrite x v s) := by
  rw [issueStep, ha]

theorem issueStep_of_wait {w : Word} {s : State} (ha : s.eng.act[s.eng.p]? = some (.wt w)) :
    issueStep s = .next (startWait w s) := by
  rw [issueStep, ha]

/-- A random answer within a request, with the bound it is reduced by (R132). -/
theorem randomStep_of_draw {w : Word} {n : Nat} {s : State} (hp : s.eng.phase = .draw) (hr : s.port.rndReq = true)
    (hn : s.eng.dl[s.eng.q]? = some n) (h0 : n ≠ 0) :
    randomStep w s =
      if s.eng.q + 1 = s.eng.dl.length then
        exec (decodeMode s.status.mode) (fillDraw (BitVec.ofNat 32 (w.toNat % n)) s)
      else .next (fillDraw (BitVec.ofNat 32 (w.toNat % n)) s) := by
  rw [randomStep, if_pos ⟨hp, hr⟩, hn]
  simp [drawAnswer, h0]

/-- Settles O4, clause by clause from the agents' steps. -/
theorem stepRunsTheFetchedOperation : Obligations.StepRunsTheFetchedOperation := by
  unfold Obligations.StepRunsTheFetchedOperation
  refine ⟨step_eq_stepEvent, fun s w i hi hb => ?_, fun s a i hi => ?_, fun s hr hp => engineStep_of_frame hr hp,
    fun s w n hp hr hn h0 hq => ?_, fun s x v hr hp ha => ?_⟩
  · rw [hostWriteStep_eq, hostWrite_cmd hi, if_neg (mt (setupOwed_iff hi).mp hb)]
  · rw [hostReadStep_eq, hostRead, hi]
  · change randomStep w s = _
    rw [randomStep_of_draw hp hr hn h0, if_pos hq]
  · change engineStep s = _
    rw [engineStep_of_issue hr hp, issueStep_of_write ha]

/-- Settles O58: the refusals are those of the two agents' steps, and `setup()` leaves all of PAB as it was, so the same
`START` is then permitted and owes nothing. -/
theorem startBeforeSetupIsRefused : Obligations.StartBeforeSetupIsRefused := by
  unfold Obligations.StartBeforeSetupIsRefused
  have hdec : decode .cmd 2 = .ok .start := by decide
  refine ⟨fun s rd hb => ?_, fun s f hp hr hd => ?_, fun s hb => ?_⟩
  · have ho (u : State) (hu : runBeforeSetup 2 u) : hostWrite 0x000 2 u = .refused .startBeforeSetup :=
      (hostWrite_cmd hdec).trans (if_pos ((setupOwed_iff hdec).mpr hu))
    cases rd with
    | false => exact ho s hb
    | true => exact ho (setRdata 0 s) hb
  · simp [stepEvent, driverStep, hp, hr, hd]
  · have ⟨_, hst, _⟩ := hb
    have hperm : startPermitted s.status.state = true := by
      revert hst; cases s.status.state <;> simp [startPermitted]
    have hrun : s.status.state ≠ .running := by rintro h; simp [h, startPermitted] at hperm
    exact ⟨_, _, if_neg hrun, (hostWrite_cmd hdec).trans ((if_neg (by simp [setupOwed])).trans (if_pos hperm)),
      rfl, rfl, rfl⟩

end Sys2Proof.Proofs
end

section
/-! PROOFS. The invariants at work: what a running state's mode says of its configuration, and that the partial reads of a
frame operation then succeed (R10, R132, R135; log 10). -/

namespace Sys2Proof.Proofs

open Sys2Proof.Machine Sys2Proof.Safety Sys2Proof.Laws

/-! ### The invariants -/

/-- The invariants speak of the state without its tape. -/
theorem inv_popped {s : State} (h : PabInv s) : PabInv (popped s) where
  phase := { h.phase with }
  mode := { h.mode with }
  frame := { h.frame with
    draws_eq := h.frame.draws_eq
    built := h.frame.built }
  index := { h.index with }
  mem := h.mem
  windows := h.windows
  driverReady := h.driverReady

/-- A run goes on in every phase but `IDLE` (R50 (b)). -/
theorem running_of_phase {s : State} (h : PabInv s) (hp : s.eng.phase ≠ .idle) : s.status.state = .running := by
  by_contra hr
  exact hp (h.phase.idle_iff.mpr hr)

/-- The mode of a run is the one its configuration resolves to (R50 (a)). -/
theorem resolve_of_running {s : State} (h : PabInv s) (hr : s.status.state = .running) :
    resolve s.cfg = (.none, s.status.mode) :=
  h.mode.resolved (by rw [h.mode.modeValid_eq, hr]; rfl)

/-- The run of a sequence mode has a sequence of 1 to 64 elements (R114, R115). -/
theorem seqLen_bounds_of_running {s : State} (h : PabInv s) (hr : s.status.state = .running)
    (hi : isSequenceMode (decodeMode s.status.mode) = true) : 1 ≤ s.cfg.seqLen.toNat ∧ s.cfg.seqLen.toNat ≤ 64 := by
  obtain ⟨-, hseq, -, hcascade⟩ := resolve_ok (resolve_of_running h hr)
  exact hseq (resolveCascade_sequence hcascade hi)

/-! ### The partial reads of the frame operations -/

/-- Every draw result that the frame operation asked for is below its bound. -/
def DrawsInBounds (i : Instr) (s : State) : Prop :=
  ∀ (k : Fin 6) (n : Nat), (drawTable i s)[k.val]? = some n → s.eng.dv[k].toNat < n

/-- A draw bound is not 0 where the sequence is not empty. -/
theorem ne_zero_of_mem_drawTable {i : Instr} {s : State} {n : Nat}
    (hl : isSequenceMode i = true → 1 ≤ s.cfg.seqLen.toNat) (hn : n ∈ drawTable i s) : n ≠ 0 := by
  rintro rfl
  cases i
  case mSeqSoftRandom =>
    have hl := hl rfl
    simp only [drawTable] at hn
    split at hn <;> simp at hn <;> omega
  case mSeqRandom =>
    have hl := hl rfl
    simp [drawTable] at hn
    omega
  case mRandomSoft =>
    simp only [drawTable] at hn
    split at hn <;> simp at hn
  all_goals simp [drawTable] at hn

/-- A partial read that answers, and a rest that answers whatever was read. -/
theorem bind_ok {α β : Type} {x : Except Fault α} {f : α → Except Fault β} (hx : ∃ a, x = .ok a)
    (hf : ∀ a, x = .ok a → ∃ b, f a = .ok b) : ∃ b, (x >>= f) = .ok b := by
  obtain ⟨a, ha⟩ := hx
  obtain ⟨b, hb⟩ := hf a ha
  exact ⟨b, by rw [ha]; exact hb⟩

/-- A frame is built where the sequence has 1 to 64 elements and the index and the draws are in bounds. -/
theorem modeFrame_ok {i : Instr} {s : State}
    (hl : isSequenceMode i = true → 1 ≤ s.cfg.seqLen.toNat ∧ s.cfg.seqLen.toNat ≤ 64)
    (hx : isInOrder i = true → s.eng.iSeq.toNat < s.cfg.seqLen.toNat) (hd : DrawsInBounds i s) :
    ∃ r, modeFrame i s = .ok r := by
  have hat (hi : isSequenceMode i = true) {n : Nat} (hn : n < s.cfg.seqLen.toNat) : ∃ c, seqAt s n = .ok c :=
    ⟨_, seqAt_of_lt (hn.trans_le (hl hi).2)⟩
  cases i
  case mSeqSoftRandom =>
    simp only [modeFrame, frameSeqSoftRandom]
    split
    · rename_i hf
      exact bind_ok (hat rfl (hd 0 _ (by simp [drawTable, hf]))) fun _ _ =>
        bind_ok (hat rfl (hd 1 _ (by simp [drawTable, hf]))) fun _ _ => ⟨_, rfl⟩
    · rename_i hf
      exact bind_ok (hat rfl (hd 0 _ (by simp [drawTable, hf]))) fun _ _ => ⟨_, rfl⟩
  case mSeqRandom => exact bind_ok (hat rfl (hd 0 _ rfl)) fun _ _ => ⟨_, rfl⟩
  case mSeqSoft =>
    have hn : s.cfg.seqLen.toNat ≠ 0 := by have := hl rfl; omega
    have hj := nextIndex_of_ne_zero (i := s.eng.iSeq.toNat) hn
    refine bind_ok (hat rfl (hx rfl)) fun _ _ => bind_ok ⟨_, hj⟩ fun j hj' => bind_ok (hat rfl ?_) fun _ _ => ⟨_, rfl⟩
    cases hj.symm.trans hj'
    exact Nat.mod_lt _ (by omega)
  case mSequence => exact bind_ok (hat rfl (hx rfl)) fun _ _ => ⟨_, rfl⟩
  all_goals exact ⟨_, rfl⟩

/-- A frame is committed where an in-order sequence is not empty. -/
theorem modeCommit_ok {i : Instr} {s : State} (hl : isInOrder i = true → 1 ≤ s.cfg.seqLen.toNat) :
    ∃ s', modeCommit i s = .ok s' := by
  have hseq (hi : isInOrder i = true) : ∃ s', commitSeqIndex s = .ok s' := by
    have hn : s.cfg.seqLen.toNat ≠ 0 := by have := hl hi; omega
    exact ⟨_, by rw [commitSeqIndex, nextIndex_of_ne_zero hn]⟩
  cases i
  case mSeqSoft => exact hseq rfl
  case mSequence => exact hseq rfl
  case mRandom =>
    simp only [modeCommit, commitIntIndex]
    split
    · rename_i hu
      have hn : s.cfg.intLen.toNat ≠ 0 := fun h0 => ((useInt_iff s).mp hu).2 (BitVec.eq_of_toNat_eq h0)
      exact ⟨_, by rw [nextIndex_of_ne_zero hn]⟩
    · exact ⟨_, rfl⟩
  all_goals exact ⟨_, rfl⟩

/-- The in-order modes are sequence modes. -/
theorem isSequenceMode_of_isInOrder {i : Instr} (h : isInOrder i = true) : isSequenceMode i = true := by
  revert h
  cases i <;> simp [isInOrder, isSequenceMode]

/-- A random answer fills in draw `q` and no other (R132). -/
theorem fillDraw_dv (v : Word) (s : State) (k : Fin 6) :
    (fillDraw v s).eng.dv[k] = if k.val = s.eng.q then v else s.eng.dv[k] := by
  simp [Vector.getElem_setIfInBounds, eq_comm]

end Sys2Proof.Proofs
end

section
/-! PROOFS. From a state with the invariants the step of each agent answers, or is refused by the name of a broken duty
(R14; logs 10, 15; O52). -/

namespace Sys2Proof.Proofs

open Sys2Proof.Machine Sys2Proof.Safety Sys2Proof.Laws

/-! ### The ENGINE -/

theorem exec_begin_stop {i : Instr} {s : State} (hi : isMode i = true) (hp : s.eng.phase = .begin)
    (hs : s.eng.stop = true) : exec i s = .next (endRun .cancelled s) := by
  rw [exec_mode hi, frameOperation, hp]
  simp only [beginFrame, hs, if_true]

theorem drawTable_noDraws (i : Instr) (s : State) : drawTable i (noDraws s) = drawTable i s := rfl

theorem drawTable_fillDraw (i : Instr) (v : Word) (s : State) : drawTable i (fillDraw v s) = drawTable i s := rfl

/-- The begin of a frame answers: cancelled, with its draws requested, or built at once (R131). -/
theorem exec_begin_next {i : Instr} {s : State} (hi : isMode i = true) (hp : s.eng.phase = .begin)
    (hl : isSequenceMode i = true → 1 ≤ s.cfg.seqLen.toNat ∧ s.cfg.seqLen.toNat ≤ 64)
    (hx : isInOrder i = true → s.eng.iSeq.toNat < s.cfg.seqLen.toNat) : ∃ t, exec i s = .next t := by
  cases hs : s.eng.stop with
  | true => exact ⟨_, exec_begin_stop hi hp hs⟩
  | false =>
    cases hd : modeDraws i s with
    | cons n ns => exact ⟨_, exec_begin_draws hi hp hs hd⟩
    | nil =>
      have hnone : DrawsInBounds i (noDraws s) := by
        intro k n hn
        rw [drawTable_noDraws, ← modeDraws_eq_drawTable hi, hd] at hn
        cases hn
      obtain ⟨r, hr⟩ := modeFrame_ok (s := noDraws s) hl hx hnone
      exact ⟨_, exec_begin_noDraws hi hp hs hd hr⟩

/-- `Issue` answers from every state (R133). -/
theorem issueStep_next (s : State) : ∃ t, issueStep s = .next t := by
  cases ha : s.eng.act[s.eng.p]? with
  | none => exact ⟨_, issueStep_of_end ha⟩
  | some a =>
    cases a with
    | wr x v => exact ⟨_, issueStep_of_write ha⟩
    | wt w => exact ⟨_, issueStep_of_wait ha⟩

theorem engineStep_next {s : State} (h : PabInv s) : ∃ t, engineStep s = .next t := by
  by_cases hr : s.status.state = .running
  swap
  · exact ⟨s, if_neg hr⟩
  have hm := isMode_decodeMode s.status.mode
  have hl := seqLen_bounds_of_running h hr
  cases hp : s.eng.phase
  case begin =>
    rw [engineStep_of_frame hr (.inl hp)]
    exact exec_begin_next hm hp hl (h.index.iSeq_lt hr)
  case finish =>
    obtain ⟨s', hc⟩ := modeCommit_ok fun hi => (hl (isSequenceMode_of_isInOrder hi)).1
    exact ⟨_, (engineStep_of_frame hr (.inr hp)).trans (exec_finish hm hp hc)⟩
  case issue =>
    rw [engineStep_of_issue hr hp]
    exact issueStep_next s
  all_goals exact ⟨s, by simp only [engineStep, hr, hp, if_true]⟩

/-! ### RANDOM -/

/-- The last draw filled in below its bound leaves every draw of the frame in bounds (R132). -/
theorem drawsInBounds_fillDraw {i : Instr} {v : Word} {n : Nat} {s : State} (hdl : s.eng.dl = drawTable i s)
    (hn : s.eng.dl[s.eng.q]? = some n) (hq : s.eng.q + 1 = s.eng.dl.length) (hv : v.toNat < n)
    (hd : ∀ k : Fin 6, k.val < s.eng.q → ∀ m, s.eng.dl[k.val]? = some m → s.eng.dv[k].toNat < m) :
    DrawsInBounds i (fillDraw v s) := by
  intro k m hm
  rw [drawTable_fillDraw, ← hdl] at hm
  rw [fillDraw_dv]
  split
  · rename_i hk
    rw [hk, hn] at hm
    cases hm
    exact hv
  · have := (List.getElem?_eq_some_iff.mp hm).1
    exact hd k (by omega) m hm

theorem randomStep_next {s : State} (h : PabInv s) (w : Word) : ∃ t, randomStep w s = .next t := by
  by_cases hc : s.eng.phase = .draw ∧ s.port.rndReq = true
  swap
  · exact ⟨s, if_neg hc⟩
  obtain ⟨hp, hreq⟩ := hc
  have hr : s.status.state = .running := running_of_phase h (by simp [hp])
  have hl := seqLen_bounds_of_running h hr
  obtain ⟨hdl, hq⟩ := h.frame.draws_eq hp
  obtain ⟨n, hn⟩ : ∃ n, s.eng.dl[s.eng.q]? = some n := ⟨_, List.getElem?_eq_getElem hq⟩
  have hmem := List.mem_of_getElem? hn
  rw [hdl] at hmem
  have h0 := ne_zero_of_mem_drawTable (fun hi => (hl hi).1) hmem
  rw [randomStep_of_draw hp hreq hn h0]
  split
  · rename_i hlast
    have hv : (BitVec.ofNat 32 (w.toNat % n)).toNat < n := by
      rw [BitVec.toNat_ofNat]
      exact (Nat.mod_le _ _).trans_lt (Nat.mod_lt _ (Nat.pos_of_ne_zero h0))
    obtain ⟨r, hf⟩ := modeFrame_ok (s := fillDraw _ s) hl (h.index.iSeq_lt hr)
      (drawsInBounds_fillDraw hdl hn hlast hv (h.frame.drawn_lt hp))
    exact ⟨_, exec_build (isMode_decodeMode _) hp hlast hf⟩
  · exact ⟨_, rfl⟩

/-! ### The DRIVER -/

theorem driverStep_next {s : State} (h : PabInv s) (f : Bool) : ∃ t, driverStep f s = .next t := by
  by_cases hc : s.eng.phase = .waitWr ∧ s.port.wrReq = true
  · have hr := running_of_phase h (by simp [hc.1])
    exact ⟨_, driverStep_answered hc.1 hc.2 (h.driverReady hr)⟩
  · exact ⟨s, if_neg hc⟩

/-! ### The HOST -/

/-- A CMD word decodes to one of the five commands (R83). -/
theorem command_of_decode {w : Word} {i : Instr} (hi : decode .cmd w = .ok i) :
    i = .nop ∨ i = .configure ∨ i = .start ∨ i = .cancel ∨ i = .clrerr := by
  simp only [decode, decodeCmd] at hi
  split at hi
  · cases hi
  · split at hi <;> cases hi <;> simp

/-- A decoded CMD word executes to a next state, from every state (R110). -/
theorem exec_command_next {w : Word} {i : Instr} (hi : decode .cmd w = .ok i) (s : State) :
    ∃ t, exec i s = .next t := by
  have hif (p : Prop) [Decidable p] (a b : State) :
      ∃ t, (if p then .next a else .next b : Result) = .next t := by
    split
    · exact ⟨a, rfl⟩
    · exact ⟨b, rfl⟩
  rcases command_of_decode hi with rfl | rfl | rfl | rfl | rfl
  · exact ⟨_, rfl⟩
  · exact hif ..
  · exact hif ..
  · exact hif ..
  · exact ⟨_, rfl⟩

/-- A host write answers, but for a `START` of a run before `setup()` (R14, U8). -/
theorem hostWrite_next_or_refused (a : BitVec 12) (v : Word) (s : State) :
    (∃ t, hostWrite a v s = .next t) ∨
      (a = 0x000 ∧ v = 2 ∧ runBeforeSetup 2 s ∧ hostWrite a v s = .refused .startBeforeSetup) := by
  by_cases ha : regAt a = some .cmd
  swap
  · exact .inl ⟨_, if_neg ha⟩
  obtain rfl : a = 0x000 := regOffset_of_regAt ha
  cases hi : decode .cmd v with
  | error e => exact .inl ⟨raiseError .command s, by rw [hostWrite, if_pos ha, hi]⟩
  | ok i =>
    rw [hostWrite_cmd hi]
    split
    · rename_i ho
      have hb := (setupOwed_iff hi).mp ho
      obtain rfl : v = 2 := hb.1
      exact .inr ⟨rfl, rfl, hb, rfl⟩
    · exact .inl (exec_command_next hi s)

/-- A HOST step answers, but for a narrow access and a `START` of a run before `setup()` (R14, R60, R69). -/
theorem hostStep_next_or_refused (a : HostAccess) (s : State) :
    (∃ t, hostStep a s = .next t) ∨ (a.size ≠ .word ∧ hostStep a s = .refused .narrowAccess) ∨
      (∃ rd : Bool, a = ⟨true, rd, 0x000, 2, .word⟩ ∧ runBeforeSetup 2 s ∧
        hostStep a s = .refused .startBeforeSetup) := by
  obtain ⟨wr, rd, addr, wdata, size⟩ := a
  by_cases hor : (wr || rd) = true
  swap
  · exact .inl ⟨s, if_neg hor⟩
  by_cases hz : size = .word
  swap
  · exact .inr (.inl ⟨hz, by rw [hostStep, if_pos hor, if_neg hz]⟩)
  subst hz
  have hstep : hostStep ⟨wr, rd, addr, wdata, .word⟩ s =
      if wr then hostWrite addr wdata (if rd then setRdata 0 s else s) else hostRead addr s := by
    rw [hostStep, if_pos hor, if_pos rfl]
  rw [hstep]
  cases wr with
  | false => exact .inl ⟨_, hostRead_eq addr s⟩
  | true =>
    rcases hostWrite_next_or_refused addr wdata (if rd then setRdata 0 s else s) with ht | ⟨rfl, rfl, hb, hr⟩
    · exact .inl ht
    · refine .inr (.inr ⟨rd, rfl, ?_, hr⟩)
      cases rd with
      | false => exact hb
      | true => exact hb

/-! ### The DRIVER's own calls -/

/-- `setup()` answers outside a run (R178, R181). -/
theorem setupStep_next_or_refused (s : State) :
    (∃ t, setupStep s = .next t) ∨ (s.status.state = .running ∧ setupStep s = .refused .setupDuringRun) := by
  unfold setupStep
  split
  · exact .inr ⟨‹_›, rfl⟩
  · exact .inl ⟨_, rfl⟩

/-- `setFrequency` answers after `setup()` with a prescale that fits (R178, R179). -/
theorem setFrequencyStep_next_or_refused (hz : Nat) (s : State) :
    (∃ t, setFrequencyStep hz s = .next t) ∨
      (s.drv.ready = false ∧ setFrequencyStep hz s = .refused .driverNotReady) ∨
      (prescale hz = none ∧ setFrequencyStep hz s = .refused .prescaleRange) := by
  unfold setFrequencyStep
  split
  · split
    · exact .inr (.inr ⟨‹_›, rfl⟩)
    · exact .inl ⟨_, rfl⟩
  · rename_i hd
    exact .inr (.inl ⟨by simpa using hd, rfl⟩)

/-- Settles O52, by the agent whose step it is: the ENGINE, RANDOM and the DRIVER's answer step by the invariants, and the
environment's own steps stop only by name. -/
theorem stepsStopOnlyOnABrokenDuty : Obligations.StepsStopOnlyOnABrokenDuty := by
  unfold Obligations.StepsStopOnlyOnABrokenDuty
  intro s h
  have hp := inv_popped h
  rw [step_eq_stepEvent]
  cases nextEvent s with
  | reset => exact .inl ⟨_, rfl⟩
  | tick => exact .inl ⟨_, rfl⟩
  | engine => exact .inl (engineStep_next hp)
  | driver f => exact .inl (driverStep_next hp f)
  | random w => exact .inl (randomStep_next hp w)
  | host a =>
    rcases hostStep_next_or_refused a (popped s) with ht | ⟨hz, hr⟩ | ⟨rd, rfl, hb, hr⟩
    · exact .inl ht
    · exact .inr (.inl ⟨a, rfl, hz, hr⟩)
    · exact .inr (.inr (.inl ⟨rd, rfl, hb, hr⟩))
  | driverSetup =>
    rcases setupStep_next_or_refused (popped s) with ht | ⟨hrun, hr⟩
    · exact .inl ht
    · exact .inr (.inr (.inr (.inl ⟨rfl, hrun, hr⟩)))
  | driverSetFrequency hz =>
    rcases setFrequencyStep_next_or_refused hz (popped s) with ht | ⟨hd, hr⟩ | ⟨hp, hr⟩
    · exact .inl ht
    · exact .inr (.inr (.inr (.inr (.inl ⟨hz, rfl, hd, hr⟩))))
    · exact .inr (.inr (.inr (.inr (.inr ⟨hz, rfl, hp, hr⟩))))

end Sys2Proof.Proofs
end

section
/-! PROOFS. What a step of a run leaves in `STATE` (R13, R136; O59). -/

namespace Sys2Proof.Proofs

open Sys2Proof.Machine Sys2Proof.Safety Sys2Proof.Laws

/-- The run goes on or has ended by its own end (R13). -/
def GoesOnOrEnds (t : State) : Prop := t.status.state = .running ∨ runEnded t.status.state = true

/-- The end of a frame ends the run `DONE` or begins the next frame (R135). -/
theorem closeFrame_goesOnOrEnds {s : State} (hr : s.status.state = .running) : GoesOnOrEnds (closeFrame s) := by
  unfold closeFrame
  split
  · exact .inr rfl
  · exact .inl hr

/-- A frame operation of a run leaves the run going on, `DONE` or `CANCELLED` (R131, R135). -/
theorem exec_mode_goesOnOrEnds {i : Instr} (hi : isMode i = true) {s t : State} (h : exec i s = .next t)
    (hr : s.status.state = .running) : GoesOnOrEnds t := by
  cases exec_mode_cases hi h with
  | cancelled => exact .inr rfl
  | closed _ s' hc =>
    obtain ⟨src, a, b, rfl⟩ := modeCommit_keeps hc
    exact closeFrame_goesOnOrEnds hr
  | requested | builtAtOnce | built | nothing => exact .inl hr

theorem startWait_status (w : Word) (s : State) : (startWait w s).status = s.status := by
  unfold startWait
  split <;> rfl

theorem tickPulse_status (s : State) : (tickPulse s).status = s.status := by
  unfold tickPulse
  split
  · dsimp only
    split <;> rfl
  · rfl

theorem engineMove_goesOnOrEnds {s t : State} (m : EngineMove s t) (hr : s.status.state = .running) :
    GoesOnOrEnds t := by
  cases m with
  | mode _ _ _ h => exact exec_mode_goesOnOrEnds (isMode_decodeMode _) h hr
  | wait _ _ w _ => exact .inl (by rw [startWait_status, hr])
  | listEnd | write | nothing => exact .inl hr

theorem randomMove_goesOnOrEnds {w : Word} {s t : State} (m : RandomMove w s t) (hr : s.status.state = .running) :
    GoesOnOrEnds t := by
  cases m with
  | last _ _ _ _ _ _ _ ht => exact exec_mode_goesOnOrEnds (isMode_decodeMode _) ht hr
  | ignored | drawn => exact .inl hr

theorem driverMove_goesOnOrEnds {f : Bool} {s t : State} (m : DriverMove f s t) (hr : s.status.state = .running) :
    GoesOnOrEnds t := by
  cases m with
  | ignored => exact .inl hr
  | answered =>
    cases f with
    | false => exact .inl hr
    | true => exact .inr rfl

/-- No CMD word ends a run (R110, R122). -/
theorem commandMove_running {s t : State} (m : CommandMove s t) (hr : s.status.state = .running) :
    t.status.state = .running := by
  cases m with
  | configured h => exact absurd hr h
  | started => rfl
  | nop | rejected | stopRequested | flagsCleared => exact hr

/-- No host write ends a run (R66, R110). -/
theorem writeMove_running {a : BitVec 12} {v : Word} {s t : State} (m : WriteMove a v s t)
    (hr : s.status.state = .running) : t.status.state = .running := by
  cases m with
  | command _ _ h => exact commandMove_running h hr
  | stored _ _ _ hs => exact absurd hr hs
  | ignored | convIn | nothing => exact hr

/-- No HOST step ends a run. -/
theorem hostStep_running {a : HostAccess} {s t : State} (h : hostStep a s = .next t)
    (hr : s.status.state = .running) : t.status.state = .running := by
  rcases hostStep_cases h with ⟨-, -, -, m⟩ | ⟨-, -, -, m⟩ | ⟨-, -, -, rfl⟩ | ⟨-, -, rfl⟩
  · exact writeMove_running m hr
  · exact writeMove_running m hr
  · exact hr
  · exact hr

/-- A step of a run is a reset into `UNCONFIGURED`, or another step that lets it go on or sets one of its ends (R13). -/
theorem step_of_running {s t : State} (h : step s = .next t) (hr : s.status.state = .running) :
    (nextEvent s = .reset ∧ t.status.state = .unconfigured) ∨ (nextEvent s ≠ .reset ∧ GoesOnOrEnds t) := by
  have other {e : Event} {r : List Event} (ht : s.tape = e :: r) (he : e ≠ .reset) (ho : GoesOnOrEnds t) :
      nextEvent s ≠ .reset ∧ GoesOnOrEnds t := ⟨by rwa [nextEvent_of_tape_cons ht], ho⟩
  cases step_cases h with
  | reset r ht => exact .inl ⟨nextEvent_of_tape_cons ht, rfl⟩
  | engine ht _ m =>
    have hm := engineMove_goesOnOrEnds m hr
    rcases ht with ht | ⟨r, ht⟩
    · exact .inr ⟨by simp [nextEvent, ht], hm⟩
    · exact .inr (other ht (by simp) hm)
  | host a r ht _ m => exact .inr (other ht (by simp) (.inl (hostStep_running m hr)))
  | driver f r ht _ m => exact .inr (other ht (by simp) (driverMove_goesOnOrEnds m hr))
  | tick r ht => exact .inr (other ht (by simp) (.inl (by rw [tickPulse_status]; exact hr)))
  | random w r ht _ m => exact .inr (other ht (by simp) (randomMove_goesOnOrEnds m hr))
  | env d _ ht =>
    rcases ht with ⟨r, ht⟩ | ⟨hz, r, ht⟩
    · exact .inr (other ht (by simp) (.inl hr))
    · exact .inr (other ht (by simp) (.inl hr))

theorem runEnded_iff (st : RunState) : runEnded st = true ↔ st = .done ∨ st = .cancelled ∨ st = .busError := by
  cases st <;> simp [runEnded]

/-- A step takes a run out of `RUNNING` exactly when it sets one of the run's ends or is a reset (R13). -/
theorem not_running_iff_ends {s t : State} (h : step s = .next t) (hr : s.status.state = .running) :
    t.status.state ≠ .running ↔ runEnded t.status.state = true ∨ nextEvent s = .reset := by
  rcases step_of_running h hr with ⟨he, ht⟩ | ⟨he, ht | ht⟩
  · simp [he, ht]
  · simp [he, ht, runEnded]
  · refine iff_of_true (fun hc => ?_) (.inl ht)
    rw [hc] at ht
    cases ht

/-- `endsRun` says whether the step takes the run out of `RUNNING`. -/
theorem endsRun_iff {s t : State} (h : step s = .next t) (hr : s.status.state = .running) :
    endsRun s t = true ↔ t.status.state ≠ .running := by
  rw [not_running_iff_ends h hr]
  simp [endsRun, hr]

/-- Settles O59: the steps that take a run out of `RUNNING` are the ones `endsRun` names, and `observeRun` looks there. -/
theorem runEndsWhereR13Says : Obligations.RunEndsWhereR13Says := by
  unfold Obligations.RunEndsWhereR13Says
  refine ⟨fun s t _ h hr => ?_, fun s t k _ h hr => ?_⟩
  · rw [not_running_iff_ends h hr, runEnded_iff, or_assoc, or_assoc]
  · rw [observeRun, h]
    dsimp only
    by_cases ht : t.status.state = .running
    · rw [if_pos ht, if_neg (fun he => (endsRun_iff h hr).mp he ht)]
    · rw [if_neg ht, if_pos ((endsRun_iff h hr).mpr ht)]

end Sys2Proof.Proofs
end

section
/-! PROOFS. A run performs a list of actions (R12, R133, R134): one action at a time, then the list by induction
(O43). -/

namespace Sys2Proof.Proofs

open Sys2Proof.Machine Sys2Proof.Safety Sys2Proof.Laws

theorem runSteps_of_tape_cons {n : Nat} {e : Event} {rest : List Event} {s u : State} (ht : s.tape = e :: rest)
    (hs : stepEvent e { s with tape := rest } = .next u) : runSteps (n + 1) s = runSteps n u :=
  runSteps_of_next ((step_of_tape_cons ht).trans hs)

/-! ### Waits -/

/-- A wait of `w` ticks, not 0, has begun (R134). -/
def waitBegun (w : Word) (s : State) : State :=
  { s with eng := { s.eng with dly := w, dlyActive := true, phase := .waitTick } }

theorem startWait_of_ne_zero {w : Word} (h : w ≠ 0) (s : State) : startWait w s = waitBegun w s := if_neg h

/-- The wait at `p` is completed with its last tick (R134). -/
def waitCompleted (s : State) : State :=
  { s with
    eng := { s.eng with dly := 0, dlyActive := false, phase := .issue, p := s.eng.p + 1 }
    trace := s.trace ++ [.wait (currentWait s)] }

theorem tickPulse_last {s : State} (hp : s.eng.phase = .waitTick) (hd : s.eng.dly.toNat = 1) :
    tickPulse s = waitCompleted s := by
  have h0 : s.eng.dly - 1 = 0 := BitVec.eq_of_toNat_eq (by simp [BitVec.toNat_sub, hd])
  simp only [tickPulse, hp, h0, if_true]
  rfl

theorem tickPulse_more {s : State} {n : Nat} (hp : s.eng.phase = .waitTick) (hd : s.eng.dly.toNat = n + 2) :
    ∃ d : Word, d.toNat = n + 1 ∧ tickPulse s = { s with eng := { s.eng with dly := d } } := by
  have hn : (s.eng.dly - 1).toNat = n + 1 := by bv_omega
  have h0 : s.eng.dly - 1 ≠ 0 := fun h => by rw [h] at hn; cases hn
  exact ⟨_, hn, by simp only [tickPulse, hp, h0, if_true, if_false]⟩

theorem runSteps_tick {n : Nat} {rest : List Event} {s : State} (ht : s.tape = .tick :: rest) :
    runSteps (n + 1) s = runSteps n (tickPulse { s with tape := rest }) :=
  runSteps_of_tape_cons ht rfl

/-- A wait is completed by as many ticks as it has left (R134). -/
theorem runSteps_ticks {n : Nat} {rest : List Event} {s : State} (hp : s.eng.phase = .waitTick)
    (hd : s.eng.dly.toNat = n + 1) (ht : s.tape = List.replicate (n + 1) .tick ++ rest) :
    runSteps (n + 1) s = .next (waitCompleted { s with tape := rest }) := by
  induction n generalizing s with
  | zero => exact (runSteps_tick ht).trans (congrArg Host.Outcome.next (tickPulse_last hp hd))
  | succ n ih =>
    rw [runSteps_tick (rest := List.replicate (n + 1) .tick ++ rest) ht]
    obtain ⟨d, hd', hs⟩ := tickPulse_more (s := { s with tape := List.replicate (n + 1) .tick ++ rest }) hp hd
    rw [hs]
    exact ih (s := { s with tape := _, eng := { s.eng with dly := d } }) hp hd' rfl

/-! ### One action -/

/-- A run whose DRIVER is set up issues its next action, with no request outstanding. -/
structure AtIssue (s : State) : Prop where
  running : s.status.state = .running
  phase : s.eng.phase = .issue
  wrReq : s.port.wrReq = false
  ready : s.drv.ready = true

/-- What performing these actions leaves, with every write answered `ok` and `rest` still on the tape. -/
structure Performed (acts : List Action) (rest : List Event) (s t : State) : Prop where
  tape : t.tape = rest
  trace : t.trace = s.trace ++ acts.map (actionTrace s.cfg.channels)
  curColor : t.curColor = colorAfter acts s.curColor
  eng : ∃ (wrb : WriteBuffer) (dly : Word) (active : Bool),
    t.eng = { s.eng with phase := .issue, p := s.eng.p + acts.length, wrb := wrb, dly := dly, dlyActive := active }
  status : t.status = s.status
  cfg : t.cfg = s.cfg
  mem : t.mem = s.mem
  convIn : t.convIn = s.convIn
  wrReq : t.port.wrReq = false
  ready : t.drv.ready = s.drv.ready

theorem Performed.atIssue {acts : List Action} {rest : List Event} {s t : State} (h : Performed acts rest s t)
    (hs : AtIssue s) : AtIssue t where
  running := by rw [h.status, hs.running]
  phase := by obtain ⟨_, _, _, he⟩ := h.eng; rw [he]
  wrReq := h.wrReq
  ready := by rw [h.ready, hs.ready]

theorem Performed.append {as bs : List Action} {rest rest' : List Event} {s t u : State}
    (h : Performed as rest s t) (h' : Performed bs rest' t u) : Performed (as ++ bs) rest' s u where
  tape := h'.tape
  trace := by rw [h'.trace, h.trace, h.cfg, List.map_append, List.append_assoc]
  curColor := by rw [h'.curColor, h.curColor]; exact (List.foldl_append ..).symm
  eng := by
    obtain ⟨_, _, _, he⟩ := h.eng
    obtain ⟨wrb, dly, active, he'⟩ := h'.eng
    exact ⟨wrb, dly, active, by rw [he', he, List.length_append, ← Nat.add_assoc]⟩
  status := h'.status.trans h.status
  cfg := h'.cfg.trans h.cfg
  mem := h'.mem.trans h.mem
  convIn := h'.convIn.trans h.convIn
  wrReq := h'.wrReq
  ready := h'.ready.trans h.ready

/-- A step of the ENGINE in ISSUE (R147). -/
theorem runSteps_issue {n : Nat} {rest : List Event} {s u : State} (hs : AtIssue s) (ht : s.tape = .engine :: rest)
    (hu : issueStep { s with tape := rest } = .next u) : runSteps (n + 1) s = runSteps n u :=
  runSteps_of_tape_cons ht ((engineStep_of_issue (s := { s with tape := rest }) hs.running hs.phase).trans hu)

/-- A write action is issued and answered `ok` (R133). -/
theorem runSteps_write {x : Lane} {v : Byte} {rest : List Event} {s : State} (hs : AtIssue s)
    (ha : s.eng.act[s.eng.p]? = some (.wr x v)) (ht : s.tape = actionEvents (.wr x v) ++ rest) :
    ∃ t, runSteps (actionEvents (.wr x v)).length s = .next t ∧ Performed [.wr x v] rest s t := by
  refine ⟨respond false (chipAnswered false
    (issueWrite (channelOf x s.cfg.channels) (toDuty v) (latchWrite x v { s with tape := rest }))), ?_, ?_⟩
  · exact (runSteps_issue hs ht (issueStep_of_write ha)).trans
      (runSteps_of_tape_cons rfl (driverStep_answered rfl rfl hs.ready))
  · exact ⟨rfl, rfl, rfl, ⟨_, _, _, rfl⟩, rfl, rfl, rfl, rfl, rfl, by simp [chipAnswered]⟩

/-- A wait action is issued and given its ticks (R134). -/
theorem runSteps_wait {w : Word} {rest : List Event} {s : State} (hs : AtIssue s)
    (ha : s.eng.act[s.eng.p]? = some (.wt w)) (ht : s.tape = actionEvents (.wt w) ++ rest) :
    ∃ t, runSteps (actionEvents (.wt w)).length s = .next t ∧ Performed [.wt w] rest s t := by
  by_cases h0 : w = 0
  · subst h0
    refine ⟨_, runSteps_issue hs ht (issueStep_of_wait ha), ?_⟩
    rw [startWait, if_pos rfl]
    exact ⟨rfl, rfl, rfl, ⟨_, _, _, rfl⟩, rfl, rfl, rfl, rfl, hs.wrReq, rfl⟩
  · obtain ⟨n, hn⟩ : ∃ n, w.toNat = n + 1 :=
      Nat.exists_eq_succ_of_ne_zero fun h => h0 (BitVec.eq_of_toNat_eq h)
    have hcur : currentWait s = w := by simp only [currentWait, ha]
    rw [actionEvents, hn] at ht ⊢
    refine ⟨waitCompleted (waitBegun w { s with tape := rest }), ?_, ?_⟩
    · rw [List.length_cons, List.length_replicate, runSteps_issue hs ht (issueStep_of_wait ha), startWait_of_ne_zero h0]
      exact runSteps_ticks rfl hn rfl
    · refine ⟨rfl, ?_, rfl, ⟨_, _, _, rfl⟩, rfl, rfl, rfl, rfl, hs.wrReq, rfl⟩
      rw [← hcur]; rfl

theorem runSteps_action {a : Action} {rest : List Event} {s : State} (hs : AtIssue s)
    (ha : s.eng.act[s.eng.p]? = some a) (ht : s.tape = actionEvents a ++ rest) :
    ∃ t, runSteps (actionEvents a).length s = .next t ∧ Performed [a] rest s t := by
  cases a with
  | wr x v => exact runSteps_write hs ha ht
  | wt w => exact runSteps_wait hs ha ht

/-! ### A list of actions -/

/-- The rest of the list is performed action by action, never merging, dropping or repeating one (R133, R173). -/
theorem runSteps_actions {acts : List Action} {rest : List Event} {s : State} (hs : AtIssue s)
    (ha : s.eng.act.drop s.eng.p = acts) (ht : s.tape = acts.flatMap actionEvents ++ rest) :
    ∃ t, runSteps (acts.flatMap actionEvents).length s = .next t ∧ Performed acts rest s t := by
  induction acts generalizing s with
  | nil =>
    have heng : s.eng = { s.eng with phase := .issue, p := s.eng.p + 0 } := by rw [← hs.phase]; rfl
    exact ⟨s, rfl, ht, by simp, rfl, ⟨_, _, _, heng⟩, rfl, rfl, rfl, rfl, hs.wrReq, rfl⟩
  | cons a as ih =>
    have ha0 : s.eng.act[s.eng.p]? = some a := by
      rw [← Nat.add_zero s.eng.p, ← List.getElem?_drop, ha]; rfl
    rw [List.flatMap_cons, List.append_assoc] at ht
    obtain ⟨t, hrun, hp⟩ := runSteps_action hs ha0 ht
    have hdrop : t.eng.act.drop t.eng.p = as := by
      obtain ⟨_, _, _, he⟩ := hp.eng
      rw [he]
      dsimp only
      rw [← List.drop_drop, ha]; rfl
    obtain ⟨u, hrun', hp'⟩ := ih (hp.atIssue hs) hdrop hp.tape
    refine ⟨u, ?_, hp.append hp'⟩
    rw [List.flatMap_cons, List.length_append, runSteps_add _ _ hrun, hrun']

/-- The whole list is performed, and the ENGINE's step at its end leads to END (R133; log 18). -/
theorem runSteps_performEvents {rest : List Event} {s : State} (hs : AtIssue s) (hp : s.eng.p = 0)
    (ht : s.tape = performEvents s.eng.act ++ rest) :
    ∃ t, Performed s.eng.act (.engine :: rest) s t ∧ runSteps (performEvents s.eng.act).length s =
      .next { t with tape := rest, eng := { t.eng with phase := .finish } } := by
  rw [performEvents, List.append_assoc] at ht
  obtain ⟨t, hrun, h⟩ := runSteps_actions hs (by rw [hp]; rfl) ht
  have hend : t.eng.act[t.eng.p]? = none := by
    obtain ⟨_, _, _, he⟩ := h.eng
    simp [he, hp]
  refine ⟨t, h, ?_⟩
  rw [performEvents, List.length_append, runSteps_add _ _ hrun]
  exact runSteps_issue (h.atIssue hs) h.tape (issueStep_of_end hend)

/-- Settles O43, from the list performed action by action. -/
theorem performingAFrameTracesItsActions : Obligations.PerformingAFrameTracesItsActions := by
  unfold Obligations.PerformingAFrameTracesItsActions
  intro s rest hrun hphase hp hreq hready ht
  obtain ⟨t, h, hsteps⟩ := runSteps_performEvents ⟨hrun, hphase, hreq, hready⟩ hp ht
  obtain ⟨wrb, dly, active, he⟩ := h.eng
  refine ⟨_, hsteps, ?_⟩
  simp [he, hp, h.trace, h.curColor, h.status, h.cfg, h.mem, h.convIn, h.wrReq]

end Sys2Proof.Proofs
end

section
/-! PROOFS. What a host access does, with the word and the address it came with (R60 to R69, R110). -/

namespace Sys2Proof.Proofs

open Sys2Proof.Machine Sys2Proof.Safety Sys2Proof.Laws

/-! ### CMD words -/

/-- A CMD word with no bit in [31:4] is its own low nibble (R82). -/
theorem cmd_low_nibble {w : Word} (h : w.extractLsb' 4 28 = 0) : (w.extractLsb' 0 4).toNat = w.toNat := by
  have h0 := congrArg BitVec.toNat h
  have hw := w.isLt
  simp only [BitVec.extractLsb'_toNat, Nat.shiftRight_eq_div_pow, BitVec.ofNat_eq_ofNat, BitVec.toNat_ofNat] at h0 ⊢
  omega

/-- A CMD word above 4 is illegal (R83, R88). -/
theorem decode_cmd_illegal {w : Word} (h : 4 < w.toNat) : ∃ e, decode .cmd w = .error e := by
  simp only [decode, decodeCmd]
  split
  · exact ⟨_, rfl⟩
  · rename_i h0
    have hn := cmd_low_nibble (not_not.mp h0)
    split
    case h_6 => exact ⟨_, rfl⟩
    all_goals omega

/-- Every CMD word is one of the five commands or illegal (R83, R88). -/
theorem cmd_word_cases (w : Word) : w = 0 ∨ w = 1 ∨ w = 2 ∨ w = 3 ∨ w = 4 ∨ 4 < w.toNat := by
  simp only [← BitVec.toNat_inj, BitVec.ofNat_eq_ofNat, BitVec.toNat_ofNat]
  omega

/-- What the write of a CMD word does, with the word (R110 to R123). -/
inductive CmdMove (w : Word) (s : State) : State → Prop where
  | noEffect (hw : w = 0 ∨ w = 3) : CmdMove w s s
  | configured (hw : w = 1) (hs : s.status.state ≠ .running) : CmdMove w s (configured s)
  | started (hw : w = 2) (hp : startPermitted s.status.state = true) (hd : s.drv.ready = true) :
      CmdMove w s (startRun s)
  | stopRequested (hw : w = 3) (hs : s.status.state = .running) : CmdMove w s (requestStop s)
  | flagsCleared (hw : w = 4) : CmdMove w s (clearSticky s)
  | rejected (hr : cmdRejected w s.status.state) : CmdMove w s (raiseError .command s)

theorem startPermitted_iff (st : RunState) :
    startPermitted st = true ↔ st ∈ [RunState.ready, .done, .cancelled, .busError] := by
  cases st <;> simp [startPermitted]

theorem hostWrite_cmd_cases {w : Word} {s t : State} (h : hostWrite 0x000 w s = .next t) : CmdMove w s t := by
  rcases cmd_word_cases w with rfl | rfl | rfl | rfl | rfl | hw
  · cases h
    exact .noEffect (.inl rfl)
  · change execConfigure s = .next t at h
    unfold execConfigure at h
    split at h <;> cases h
    · exact .rejected (.inr (.inl ⟨rfl, ‹_›⟩))
    · exact .configured rfl ‹_›
  · rw [hostWrite_cmd (i := .start) (by decide)] at h
    split at h
    · cases h
    · rename_i ho
      change execStart s = .next t at h
      unfold execStart at h
      split at h <;> cases h
      · rename_i hp
        exact .started rfl hp (by simpa [setupOwed, hp] using ho)
      · rename_i hp
        exact .rejected (.inr (.inr ⟨rfl, mt (startPermitted_iff _).mpr hp⟩))
  · change execCancel s = .next t at h
    unfold execCancel at h
    split at h <;> cases h
    · exact .stopRequested rfl ‹_›
    · exact .noEffect (.inr rfl)
  · cases h
    exact .flagsCleared rfl
  · obtain ⟨e, he⟩ := decode_cmd_illegal hw
    have ha : regAt 0x000 = some .cmd := regAt_regOffset .cmd
    rw [hostWrite, if_pos ha, he] at h
    cases h
    exact .rejected (.inl hw)

/-! ### Host accesses -/

/-- The state in which a host write is taken: with both strobes set `h_rdata` is 0 (R60). -/
def strobed (rd : Bool) (s : State) : State := if rd then setRdata 0 s else s

theorem strobed_eq (rd : Bool) (s : State) : ∃ x : Word, strobed rd s = setRdata x s := by
  cases rd with
  | false => exact ⟨s.port.hRdata, rfl⟩
  | true => exact ⟨0, rfl⟩

@[simp] theorem strobed_keeps (rd : Bool) (s : State) :
    (strobed rd s).cfg = s.cfg ∧ (strobed rd s).status = s.status ∧ (strobed rd s).eng = s.eng ∧
    (strobed rd s).convIn = s.convIn ∧ (strobed rd s).mem = s.mem ∧ (strobed rd s).resets = s.resets ∧
    (strobed rd s).drv = s.drv := by
  obtain ⟨x, hx⟩ := strobed_eq rd s
  simp [hx]

/-- What a HOST step does, with the access it came with (R60 to R68). -/
inductive HostMove (a : HostAccess) (s : State) : State → Prop where
  | command (rd : Bool) (w : Word) (ha : a = ⟨true, rd, 0x000, w, .word⟩) (t : State) (m : CmdMove w (strobed rd s) t) :
      HostMove a s t
  | ignored (rd : Bool) (r : Reg) (v : Word) (ha : a = ⟨true, rd, regOffset r, v, .word⟩) (hr : regAccess r = .cfg)
      (hs : s.status.state = .running) : HostMove a s (raiseError .ignoredWrite (strobed rd s))
  | stored (rd : Bool) (r : Reg) (v : Word) (ha : a = ⟨true, rd, regOffset r, v, .word⟩) (hr : regAccess r = .cfg)
      (hs : s.status.state ≠ .running) : HostMove a s (invalidate (storeReg r v (strobed rd s)))
  | convIn (rd : Bool) (v : Word) (ha : a = ⟨true, rd, 0x038, v, .word⟩) :
      HostMove a s { strobed rd s with convIn := wordColor v }
  /-- A read, an access without strobes, or a write that nothing takes. -/
  | answered (hw : a.wr = true → ∀ r, a.addr = regOffset r → regAccess r = .ro) (x : Word) : HostMove a s (setRdata x s)

theorem regOffset_inj {r r' : Reg} (h : regOffset r = regOffset r') : r = r' := by
  have := congrArg regAt h
  simpa [regAt_regOffset] using this

/-- A host write with either setting of the read strobe. -/
theorem hostWrite_moves {rd : Bool} {addr : BitVec 12} {v : Word} {s t : State}
    (h : hostWrite addr v (strobed rd s) = .next t) : HostMove ⟨true, rd, addr, v, .word⟩ s t := by
  have kept (hro : ∀ r, addr = regOffset r → regAccess r = .ro) :
      HostMove ⟨true, rd, addr, v, .word⟩ s (strobed rd s) := by
    obtain ⟨x, hx⟩ := strobed_eq rd s
    rw [hx]
    exact .answered (fun _ => hro) x
  cases hreg : regAt addr with
  | none =>
    rw [hostWrite, if_neg (by simp [hreg]), memWrite, hreg] at h
    cases h
    exact kept fun r hr => by rw [hr, regAt_regOffset] at hreg; cases hreg
  | some r =>
    obtain rfl := regOffset_of_regAt hreg
    by_cases hc : r = .cmd
    · subst hc
      exact .command rd v rfl t (hostWrite_cmd_cases h)
    rw [hostWrite, if_neg (by simpa [hreg] using hc), memWrite, hreg] at h
    dsimp only at h
    split at h
    · rename_i hcfg
      split at h <;> cases h
      · exact .ignored rd r v rfl hcfg (by simpa using ‹(strobed rd s).status.state = _›)
      · exact .stored rd r v rfl hcfg (by simpa using ‹¬ (strobed rd s).status.state = _›)
    · rename_i hrw
      obtain rfl : r = .convIn := by cases r <;> simp [regAccess] at hrw; rfl
      cases h
      exact .convIn rd v rfl
    · rename_i hro
      cases h
      exact kept fun r' hr => regOffset_inj hr ▸ hro
    · rename_i hwo
      exact absurd (by cases r <;> simp [regAccess] at hwo; rfl) hc

theorem hostStep_moves {a : HostAccess} {s t : State} (h : hostStep a s = .next t) : HostMove a s t := by
  obtain ⟨wr, rd, addr, v, size⟩ := a
  unfold hostStep at h
  split at h
  · split at h
    · rename_i hz
      obtain rfl : size = .word := hz
      cases wr with
      | true => exact hostWrite_moves h
      | false =>
        rw [if_neg (by simp), hostRead_eq] at h
        cases h
        exact .answered (by simp) _
    · cases h
  · rename_i hor
    cases h
    exact .answered (a := ⟨wr, rd, addr, v, size⟩) (by simp at hor; simp [hor]) s.port.hRdata

end Sys2Proof.Proofs
end

section
/-! PROOFS. What the steps of the ENGINE, RANDOM, the DRIVER and the TIMEBASE do to `STATE`, and the steps that change
`STATE` (R110, R112, R121, R131, R133, R135, R136; O45). -/

namespace Sys2Proof.Proofs

open Sys2Proof.Machine Sys2Proof.Safety Sys2Proof.Laws

/-- The end of a frame ends the run with `FC` 0 and lets it go on otherwise (R135). -/
theorem closeFrame_state (s : State) :
    (s.eng.fc = 0 ∧ (closeFrame s).status.state = .done) ∨ (closeFrame s).status.state = s.status.state := by
  unfold closeFrame
  split
  · exact .inl ⟨‹_›, rfl⟩
  · exact .inr rfl

/-- A frame operation changes `STATE` at END with `FC` 0 and at BEGIN with the stop flag set (R131, R135). -/
theorem exec_mode_state {i : Instr} (hi : isMode i = true) {s t : State} (h : exec i s = .next t) :
    t.status.state = s.status.state ∨
    (s.eng.phase = .finish ∧ s.eng.fc = 0 ∧ t.status.state = .done) ∨
    (s.eng.phase = .begin ∧ s.eng.stop = true ∧ t.status.state = .cancelled) := by
  cases exec_mode_cases hi h with
  | cancelled hp hs => exact .inr (.inr ⟨hp, hs, rfl⟩)
  | closed hp s' hc =>
    obtain ⟨src, a, b, rfl⟩ := modeCommit_keeps hc
    rcases closeFrame_state { s with eng := { s.eng with src := src, iSeq := a, iInt := b } } with ⟨hfc, ht⟩ | ht
    · exact .inr (.inl ⟨hp, hfc, ht⟩)
    · exact .inl ht
  | requested | builtAtOnce | built | nothing => exact .inl rfl

/-- The ENGINE changes `STATE` only at a frame's end and at a frame's begin (R131, R135). -/
theorem engineMove_state {s t : State} (m : EngineMove s t) :
    t.status.state = s.status.state ∨
    (s.status.state = .running ∧ s.eng.phase = .finish ∧ s.eng.fc = 0 ∧ t.status.state = .done) ∨
    (s.status.state = .running ∧ s.eng.phase = .begin ∧ s.eng.stop = true ∧ t.status.state = .cancelled) := by
  cases m with
  | mode hr _ _ h =>
    rcases exec_mode_state (isMode_decodeMode _) h with ht | ht | ht
    · exact .inl ht
    · exact .inr (.inl ⟨hr, ht⟩)
    · exact .inr (.inr ⟨hr, ht⟩)
  | wait _ _ w _ => exact .inl (by rw [startWait_status])
  | listEnd | write | nothing => exact .inl rfl

/-- The last random answer of a frame builds it: the only move of a frame operation in DRAW (R132). -/
theorem exec_mode_of_drawn {i : Instr} (hi : isMode i = true) {s t : State} (hp : s.eng.phase = .draw)
    (hq : s.eng.q = s.eng.dl.length) (h : exec i s = .next t) : ∃ r, modeFrame i s = .ok r ∧ t = takeFrame r s := by
  cases exec_mode_cases hi h with
  | built _ _ r hf => exact ⟨r, hf, rfl⟩
  | nothing hn => exact absurd ⟨hp, hq⟩ hn.2.2
  | cancelled hb | requested hb | builtAtOnce hb | closed hb => exact absurd (hp.symm.trans hb) (by simp)

theorem randomMove_status {w : Word} {s t : State} (m : RandomMove w s t) : t.status = s.status := by
  cases m with
  | last hp _ n _ _ hq _ ht =>
    obtain ⟨r, -, rfl⟩ := exec_mode_of_drawn (isMode_decodeMode _) (s := fillDraw _ s) hp hq ht
    rfl
  | ignored | drawn => rfl

/-- A DRIVER answer changes `STATE` only where it fails in WAIT_WR (R133). -/
theorem driverMove_state {f : Bool} {s t : State} (m : DriverMove f s t) :
    t.status.state = s.status.state ∨ (s.eng.phase = .waitWr ∧ f = true ∧ t.status.state = .busError) := by
  cases m with
  | ignored => exact .inl rfl
  | answered hp =>
    cases f with
    | false => exact .inl rfl
    | true => exact .inr ⟨hp, rfl, rfl⟩

/-- A permitted `CONFIGURE` leads to `READY` where the configuration resolves and to `CONFIG_ERROR` where not (R112). -/
theorem configured_cases (s : State) :
    (∃ m, resolve s.cfg = (.none, m) ∧ configured s = configReady m s) ∨
    ((resolve s.cfg).1 ≠ .none ∧ configured s = configFailed (resolve s.cfg).1 s) := by
  unfold configured
  split
  · rename_i m hr
    exact .inl ⟨m, hr, rfl⟩
  · rename_i code m hne hr
    rw [hr]
    exact .inr ⟨hne, rfl⟩

theorem nextEvent_eq_engine {s : State} (h : s.tape = [] ∨ ∃ r, s.tape = .engine :: r) : nextEvent s = .engine := by
  rcases h with h | ⟨r, h⟩
  · simp [nextEvent, h]
  · exact nextEvent_of_tape_cons h

/-- Settles O45, by the agent whose step it is. -/
theorem stateTransitions : Obligations.StateTransitions := by
  unfold Obligations.StateTransitions
  intro s t hinv h hne
  cases step_cases h with
  | reset r ht => exact .inl (nextEvent_of_tape_cons ht)
  | tick r ht => exact absurd (congrArg Status.state (tickPulse_status (popped s))) hne
  | env => exact absurd rfl hne
  | random w r ht _ m => exact absurd (congrArg Status.state (randomMove_status m)) hne
  | driver f r ht _ m =>
    rcases driverMove_state m with hst | ⟨hp, rfl, hst⟩
    · exact absurd hst hne
    · rw [hst]
      have hidle : (popped s).eng.phase ≠ .idle := by simp [hp]
      exact ⟨running_of_phase hinv hidle, hp, nextEvent_of_tape_cons ht⟩
  | engine ht _ m =>
    have he := nextEvent_eq_engine ht
    rcases engineMove_state m with hst | ⟨hr, hp, hfc, hst⟩ | ⟨hr, hp, hs, hst⟩
    · exact absurd hst hne
    · rw [hst]
      exact ⟨hr, hp, hfc, he⟩
    · rw [hst]
      exact ⟨hr, hp, hs, he⟩
  | host a r ht _ m =>
    have he := nextEvent_of_tape_cons ht
    cases hostStep_moves m with
    | stored rd r v ha hr hs => exact .inr ⟨hs, rd, r, v, hr, by rw [he, ha]⟩
    | ignored | convIn => exact absurd (by simp [popped]) hne
    | answered => exact absurd rfl hne
    | command rd w ha _ m =>
      rw [ha] at he
      cases m with
      | noEffect | stopRequested | flagsCleared | rejected => exact absurd (by simp [popped]) hne
      | started hw hp hd =>
        subst hw
        simp only [strobed_keeps] at hp hd
        exact ⟨(startPermitted_iff _).mp hp, hd, rd, he⟩
      | configured hw hs =>
        subst hw
        simp only [strobed_keeps] at hs
        rcases configured_cases (strobed rd (popped s)) with ⟨m, hm, hc⟩ | ⟨hm, hc⟩
        · rw [hc]
          simp only [strobed_keeps] at hm
          exact ⟨hs, congrArg Prod.fst hm, rd, he⟩
        · rw [hc]
          simp only [strobed_keeps] at hm
          exact ⟨hs, hm, rd, he⟩

end Sys2Proof.Proofs
end

section
/-! PROOFS. The frames that the modes build: what they read of the engine, and their length (R137 to R144, R163). -/

namespace Sys2Proof.Proofs

open Sys2Proof.Machine Sys2Proof.Safety Sys2Proof.Laws

/-- A chain of partial reads that answers has answered at its first read. -/
theorem ok_of_bind_ok {α β : Type} {x : Except Fault α} {f : α → Except Fault β} {b : β} (h : (x >>= f) = .ok b) :
    ∃ a, x = .ok a ∧ f a = .ok b := by
  cases x with
  | error e => cases h
  | ok a => exact ⟨a, rfl, h⟩

theorem length_ramp (x : Lane) (a b : Byte) (t : Word) : (ramp x a b t).length = 2 * rampWrites a b := by
  unfold ramp rampWrites
  split
  · rfl
  · split <;> rw [length_rampLoop] <;> omega

/-- A crossfade writes and waits at most 256 times in each lane (R163). -/
theorem length_goto_le (src tgt : Color) (t : Word) : (goto src tgt t).length ≤ 1536 := by
  simp only [goto, List.length_append, length_ramp]
  have := rampWrites_le src.r tgt.r
  have := rampWrites_le src.g tgt.g
  have := rampWrites_le src.b tgt.b
  omega

/-- A frame is a crossfade between its two colours, or a few actions that leave `S` and `T` as they were
(R137 to R144). -/
theorem modeFrame_shape {i : Instr} (hi : isMode i = true) {s : State} {r : Frame} (h : modeFrame i s = .ok r) :
    (r.act = goto r.src r.tgt s.cfg.interval) ∨ (r.act.length ≤ 11 ∧ r.src = s.eng.src ∧ r.tgt = s.eng.tgt) := by
  cases i
  case mSeqSoftRandom =>
    simp only [modeFrame, frameSeqSoftRandom] at h
    split at h
    · obtain ⟨_, -, h⟩ := ok_of_bind_ok h
      obtain ⟨_, -, h⟩ := ok_of_bind_ok h
      cases h; exact .inl rfl
    · obtain ⟨_, -, h⟩ := ok_of_bind_ok h
      cases h; exact .inl rfl
  case mSeqSoft =>
    obtain ⟨_, -, h⟩ := ok_of_bind_ok h
    obtain ⟨_, -, h⟩ := ok_of_bind_ok h
    obtain ⟨_, -, h⟩ := ok_of_bind_ok h
    cases h; exact .inl rfl
  case mSeqRandom | mSequence =>
    obtain ⟨_, -, h⟩ := ok_of_bind_ok h
    cases h; exact .inr ⟨by simp, rfl, rfl⟩
  case mRandomSoft => cases h; exact .inl rfl
  case mRandom | mChaos | mRegular => cases h; exact .inr ⟨by simp, rfl, rfl⟩
  all_goals cases hi

theorem modeFrame_length_le {i : Instr} (hi : isMode i = true) {s : State} {r : Frame} (h : modeFrame i s = .ok r) :
    r.act.length ≤ 1536 := by
  rcases modeFrame_shape hi h with hact | ⟨hle, -, -⟩
  · rw [hact]
    exact length_goto_le ..
  · omega

/-- The state with other colours in `S` and `T`. -/
def withColors (src tgt : Color) (s : State) : State := { s with eng := { s.eng with src := src, tgt := tgt } }

/-- A frame keeps its value when its own colours are taken into `S` and `T`: of these it reads `S` alone, and only where
it keeps it (R137, R141). -/
theorem modeFrame_withColors {i : Instr} (hi : isMode i = true) {s : State} {r : Frame} (h : modeFrame i s = .ok r) :
    modeFrame i (withColors r.src r.tgt s) = .ok r := by
  cases i
  case mSeqSoftRandom =>
    simp only [modeFrame, frameSeqSoftRandom] at h ⊢
    cases hf : s.eng.first with
    | true =>
      have hf' : (withColors r.src r.tgt s).eng.first = true := hf
      rw [hf] at h
      rw [hf']
      exact h
    | false =>
      have h' := h
      rw [hf] at h'
      obtain ⟨_, -, h'⟩ := ok_of_bind_ok h'
      cases h'; exact h
  case mRandomSoft =>
    simp only [modeFrame, frameRandomSoft] at h ⊢
    cases hf : s.eng.first with
    | true => simpa [withColors, draw, hf] using h
    | false => cases h; simp [withColors, draw, hf]
  case mSeqSoft => exact h
  case mSeqRandom | mSequence =>
    have h' := h
    obtain ⟨_, -, h'⟩ := ok_of_bind_ok h'
    cases h'; exact h
  case mRandom | mChaos | mRegular => cases h; rfl
  all_goals cases hi

end Sys2Proof.Proofs
end

section
/-! PROOFS. The invariants outside a run, and the parts of them that a step of a run keeps (R22 to R29, R39, R40, R45,
R50). -/

namespace Sys2Proof.Proofs

open Sys2Proof.Machine Sys2Proof.Safety Sys2Proof.Laws

/-! ### What the invariants do not speak of -/

/-- The invariants do not speak of the sticky bits, `h_rdata`, the two colour registers, the trace and the chip. -/
theorem inv_unread {s : State} (h : PabInv s) (cmdErr wrIgnored : Bool) (rdata : Word) (cur conv : Color)
    (tr : List TraceItem) {d : Driver} (hd : s.status.state = .running → d.ready = true) :
    PabInv { s with
      status := { s.status with cmdErr := cmdErr, wrIgnored := wrIgnored }
      port := { s.port with hRdata := rdata }
      curColor := cur, convIn := conv, trace := tr, drv := d } where
  phase := { h.phase with }
  mode := { h.mode with }
  frame := { h.frame with
    draws_eq := h.frame.draws_eq
    built := h.frame.built }
  index := { h.index with }
  mem := h.mem
  windows := h.windows
  driverReady := hd

theorem inv_setRdata {s : State} (h : PabInv s) (x : Word) : PabInv (setRdata x s) :=
  inv_unread h _ _ x _ _ _ h.driverReady

theorem inv_strobed {s : State} (h : PabInv s) (rd : Bool) : PabInv (strobed rd s) := by
  obtain ⟨x, hx⟩ := strobed_eq rd s
  rw [hx]
  exact inv_setRdata h x

theorem modeInv_congr {s t : State} (h : ModeInv s) (hst : t.status = s.status) (hcfg : t.cfg = s.cfg) : ModeInv t where
  modeValid_eq := by rw [hst, h.modeValid_eq]
  mode_zero := by rw [hst]; exact h.mode_zero
  cfgErr_none_iff := by rw [hst]; exact h.cfgErr_none_iff
  resolved := by rw [hst, hcfg]; exact h.resolved

theorem useInt_congr {s t : State} (hcfg : t.cfg = s.cfg) : useInt t = useInt s := by simp only [useInt, hcfg]

theorem indexInv_congr {s t : State} (h : IndexInv s) (hst : t.status = s.status) (hcfg : t.cfg = s.cfg)
    (hseq : t.eng.iSeq = s.eng.iSeq) (hint : t.eng.iInt = s.eng.iInt) : IndexInv t where
  iSeq_lt := by rw [hst, hcfg, hseq]; exact h.iSeq_lt
  iSeq_zero := by rw [hst, hseq]; exact h.iSeq_zero
  iInt_lt := by rw [hst, hcfg, hint, useInt_congr hcfg]; exact h.iInt_lt
  iInt_zero := by rw [hst, hint, useInt_congr hcfg]; exact h.iInt_zero

/-! ### Outside a run -/

/-- No request and no wait is outstanding (R29, R170, R175). -/
structure Quiet (s : State) : Prop where
  wrReq : s.port.wrReq = false
  rndReq : s.port.rndReq = false
  dlyActive : s.eng.dlyActive = false
  dly : s.eng.dly = 0
  wrOn : s.port.wrOn = 0

theorem wrReq_false {s : State} (h : PabInv s) (hp : s.eng.phase ≠ .waitWr) : s.port.wrReq = false :=
  Bool.eq_false_iff.mpr (mt h.phase.wrReq_iff.mp hp)

theorem rndReq_false {s : State} (h : PabInv s) (hp : s.eng.phase ≠ .draw) : s.port.rndReq = false :=
  Bool.eq_false_iff.mpr (mt h.phase.rndReq_iff.mp hp)

theorem dlyActive_false {s : State} (h : PabInv s) (hp : s.eng.phase ≠ .waitTick) : s.eng.dlyActive = false :=
  Bool.eq_false_iff.mpr (mt h.phase.dlyActive_iff.mp hp)

theorem quiet_of_inv {s : State} (h : PabInv s) (hw : s.eng.phase ≠ .waitWr) (hd : s.eng.phase ≠ .draw)
    (ht : s.eng.phase ≠ .waitTick) : Quiet s :=
  ⟨wrReq_false h hw, rndReq_false h hd, dlyActive_false h ht, h.phase.dly_zero_iff.mpr ht, h.phase.wrOn_zero⟩

/-- The ENGINE and the ports rest (R136, R231). -/
structure AtRest (s : State) : Prop extends Quiet s where
  phase : s.eng.phase = .idle
  stop : s.eng.stop = false
  p_le : s.eng.p ≤ s.eng.act.length
  act_le : s.eng.act.length ≤ 1536

theorem atRest_of_inv {s : State} (h : PabInv s) (hs : s.status.state ≠ .running) : AtRest s := by
  have hp : s.eng.phase = .idle := h.phase.idle_iff.mpr hs
  exact { quiet_of_inv h (by simp [hp]) (by simp [hp]) (by simp [hp]) with
    phase := hp
    stop := Bool.eq_false_iff.mpr (mt h.phase.stop_running hs)
    p_le := h.frame.p_le
    act_le := h.frame.act_le }

/-- The end of a run brings the ENGINE and the ports to rest (R136). -/
theorem atRest_endRun (st : RunState) {s : State} (hon : s.port.wrOn = 0) : AtRest (endRun st s) :=
  { wrReq := rfl, rndReq := rfl, dlyActive := rfl, dly := rfl, wrOn := hon, phase := rfl, stop := rfl
    p_le := Nat.le_refl 0, act_le := Nat.zero_le _ }

/-- At rest outside a run, the invariants are those of the status and the memory. -/
theorem inv_of_atRest {s : State} (hr : AtRest s) (hs : s.status.state ≠ .running) (hm : ModeInv s)
    (hmem : Memory.wf s.mem = true) (hwin : memInWindows s.mem) : PabInv s := by
  have hidle := hr.phase
  exact {
    phase := {
      idle_iff := iff_of_true hidle hs
      wrReq_iff := by simp [hr.wrReq, hidle]
      rndReq_iff := by simp [hr.rndReq, hidle]
      dlyActive_iff := by simp [hr.dlyActive, hidle]
      dly_zero_iff := by simp [hr.dly, hidle]
      wrOn_zero := hr.wrOn
      stop_running := by simp [hr.stop] }
    mode := hm
    frame := {
      p_le := hr.p_le
      act_le := hr.act_le
      draws_eq := by simp [hidle]
      built := by simp [hidle, performing]
      drawn_lt := by simp [hidle]
      waitWr_action := by simp [hidle]
      waitTick_action := by simp [hidle]
      fc_le := fun h => absurd h hs }
    index := ⟨fun h => absurd h hs, fun h => absurd h hs, fun h => absurd h hs, fun h => absurd h hs⟩
    mem := hmem
    windows := hwin
    driverReady := fun h => absurd h hs }

/-- The reset values have the invariants, whatever the fields hold that a reset leaves (R231). -/
theorem inv_of_resetValues {s : State} (hst : s.status = State.reset.status) (heng : s.eng = Engine.reset)
    (hport : s.port = State.reset.port) (hmem : s.mem = []) : PabInv s := by
  have hrest : AtRest s := by
    constructor
    · constructor <;> simp [heng, hport, Engine.reset, State.reset]
    all_goals simp [heng, Engine.reset]
  refine inv_of_atRest hrest (by simp [hst, State.reset]) ?_ (by rw [hmem]; rfl) (by simp [hmem, memInWindows])
  constructor <;> simp [hst, State.reset, stateHasMode]

/-- Settles O50, from the reset values. -/
theorem invariantsAtReset : Obligations.InvariantsAtReset := inv_of_resetValues rfl rfl rfl rfl

theorem inv_resetStep (s : State) : PabInv (resetStep s) := inv_of_resetValues rfl rfl rfl rfl

/-! ### Configuration writes and `CONFIGURE` -/

/-- Storing a word inside the windows stays inside them (R61). -/
theorem memInWindows_cellSetWord {m : List Host.Cell} {a : Nat} (w : Word) (hm : memInWindows m) (hlo : 0x100 ≤ a)
    (hhi : a + 3 < 0x300) : memInWindows (cellSetWord m a w) := by
  have hset {m : List Host.Cell} {b : Nat} {v : Byte} (hm : memInWindows m) (hb : 0x100 ≤ b ∧ b < 0x300) :
      memInWindows (cellSet m b v) := by
    intro c hc
    rcases mem_cellSet hc with rfl | hc
    · exact hb
    · exact hm c hc
  exact hset (hset (hset (hset hm (by omega)) (by omega)) (by omega)) (by omega)

/-- A stored register keeps the canonical form of the memory and its windows. -/
theorem storeReg_mem {r : Reg} {v : Word} {s : State} (hwf : Memory.wf s.mem = true) (hwin : memInWindows s.mem) :
    Memory.wf (storeReg r v s).mem = true ∧ memInWindows (storeReg r v s).mem := by
  cases r
  case seqRam n =>
    have := n.isLt
    exact ⟨wf_cellSetWord _ _ hwf, memInWindows_cellSetWord _ hwin (by simp [seqAddr]) (by simp only [seqAddr]; omega)⟩
  case intRam n =>
    have := n.isLt
    exact ⟨wf_cellSetWord _ _ hwf,
      memInWindows_cellSetWord _ hwin (by simp only [intAddr]; omega) (by simp only [intAddr]; omega)⟩
  all_goals exact ⟨hwf, hwin⟩

/-- A stored register leaves the ENGINE and the ports as they were. -/
theorem storeReg_keeps (r : Reg) (v : Word) (s : State) :
    (storeReg r v s).eng = s.eng ∧ (storeReg r v s).port = s.port ∧ (storeReg r v s).status = s.status := by
  cases r <;> exact ⟨rfl, rfl, rfl⟩

theorem atRest_congr {s t : State} (h : AtRest s) (heng : t.eng = s.eng) (hport : t.port = s.port) : AtRest t where
  wrReq := by rw [hport, h.wrReq]
  rndReq := by rw [hport, h.rndReq]
  dlyActive := by rw [heng, h.dlyActive]
  dly := by rw [heng, h.dly]
  wrOn := by rw [hport, h.wrOn]
  phase := by rw [heng, h.phase]
  stop := by rw [heng, h.stop]
  p_le := by rw [heng]; exact h.p_le
  act_le := by rw [heng]; exact h.act_le

/-- A taken configuration write invalidates, and so keeps the invariants (R67). -/
theorem inv_stored {s : State} (h : PabInv s) (hs : s.status.state ≠ .running) (r : Reg) (v : Word) :
    PabInv (invalidate (storeReg r v s)) := by
  obtain ⟨heng, hport, -⟩ := storeReg_keeps r v s
  obtain ⟨hwf, hwin⟩ := storeReg_mem (r := r) (v := v) h.mem h.windows
  have hmode : ModeInv (invalidate (storeReg r v s)) := by
    constructor <;> simp [invalidate, stateHasMode]
  exact inv_of_atRest (atRest_congr (atRest_of_inv h hs) heng hport) (by simp [invalidate]) hmode hwf hwin

/-- `CONFIGURE` sets a mode that the configuration resolves to, or none (R112). -/
theorem inv_configured {s : State} (h : PabInv s) (hs : s.status.state ≠ .running) : PabInv (configured s) := by
  have hrest := atRest_of_inv h hs
  rcases configured_cases s with ⟨m, hm, hc⟩ | ⟨hne, hc⟩
  · have hmode : ModeInv (configReady m s) := by
      constructor <;> simp [configReady, stateHasMode, hm]
    rw [hc]
    exact inv_of_atRest (atRest_congr hrest rfl rfl) (by simp [configReady]) hmode h.mem h.windows
  · have hmode : ModeInv (configFailed (resolve s.cfg).1 s) := by
      constructor <;> simp [configFailed, stateHasMode, hne]
    rw [hc]
    exact inv_of_atRest (atRest_congr hrest rfl rfl) (by simp [configFailed]) hmode h.mem h.windows

/-- A run's end keeps its mode (R136). -/
theorem inv_endRun {st : RunState} {s : State} (hst : runEnded st = true) (hr : s.status.state = .running)
    (hm : ModeInv s) (hmem : Memory.wf s.mem = true) (hwin : memInWindows s.mem) (hon : s.port.wrOn = 0) :
    PabInv (endRun st s) := by
  have hmode : ModeInv (endRun st s) := by
    have hvalid := hm.modeValid_eq
    have hnone := hm.cfgErr_none_iff
    rw [hr] at hvalid hnone
    refine ⟨hvalid.trans ?_, hm.mode_zero, hnone.trans ?_, hm.resolved⟩
    · cases st <;> simp [runEnded] at hst <;> rfl
    · cases st <;> simp [runEnded] at hst ⊢
  exact inv_of_atRest (atRest_endRun st hon) (by rintro rfl; cases hst) hmode hmem hwin

end Sys2Proof.Proofs
end

section
/-! PROOFS. The invariants inside a run, phase by phase, and the invariants kept by every step (R45, R47, R50, R131 to
R136; O51). -/

namespace Sys2Proof.Proofs

open Sys2Proof.Machine Sys2Proof.Safety Sys2Proof.Laws

/-! ### A run and its phases -/

/-- The invariants of a run that do not speak of the position, the frame and the ports. -/
structure RunInv (s : State) : Prop where
  running : s.status.state = .running
  mode : ModeInv s
  index : IndexInv s
  mem : Memory.wf s.mem = true
  windows : memInWindows s.mem
  ready : s.drv.ready = true
  fc_le : s.eng.fc.toNat ≤ s.cfg.frameCount.toNat

theorem runInv_of_inv {s : State} (h : PabInv s) (hr : s.status.state = .running) : RunInv s :=
  ⟨hr, h.mode, h.index, h.mem, h.windows, h.driverReady hr, h.frame.fc_le hr⟩

theorem runInv_congr {s t : State} (h : RunInv s) (hst : t.status = s.status) (hcfg : t.cfg = s.cfg)
    (hmem : t.mem = s.mem) (hdrv : t.drv.ready = s.drv.ready) (hfc : t.eng.fc = s.eng.fc)
    (hseq : t.eng.iSeq = s.eng.iSeq) (hint : t.eng.iInt = s.eng.iInt) : RunInv t where
  running := by rw [hst, h.running]
  mode := modeInv_congr h.mode hst hcfg
  index := indexInv_congr h.index hst hcfg hseq hint
  mem := by rw [hmem, h.mem]
  windows := by rw [hmem]; exact h.windows
  ready := by rw [hdrv, h.ready]
  fc_le := by rw [hfc, hcfg]; exact h.fc_le

theorem inv_of_runInv {s : State} (h : RunInv s) (hp : PhaseInv s) (hf : FrameInv s) : PabInv s :=
  ⟨hp, h.mode, hf, h.index, h.mem, h.windows, fun _ => h.ready⟩

/-- In the phases without a request or a wait the ports are quiet. -/
theorem phaseInv_of_quiet {s : State} (hr : s.status.state = .running) (hq : Quiet s)
    (hp : s.eng.phase = .begin ∨ s.eng.phase = .issue ∨ s.eng.phase = .finish) : PhaseInv s where
  idle_iff := by rcases hp with hp | hp | hp <;> simp [hp, hr]
  wrReq_iff := by rcases hp with hp | hp | hp <;> simp [hp, hq.wrReq]
  rndReq_iff := by rcases hp with hp | hp | hp <;> simp [hp, hq.rndReq]
  dlyActive_iff := by rcases hp with hp | hp | hp <;> simp [hp, hq.dlyActive]
  dly_zero_iff := by rcases hp with hp | hp | hp <;> simp [hp, hq.dly]
  wrOn_zero := hq.wrOn
  stop_running := fun _ => hr

/-- A frame's begin: the last frame's list, from its first action. -/
theorem inv_of_begin {s : State} (h : RunInv s) (hq : Quiet s) (hp : s.eng.phase = .begin) (hz : s.eng.p = 0)
    (hact : s.eng.act.length ≤ 1536) : PabInv s :=
  inv_of_runInv h (phaseInv_of_quiet h.running hq (.inl hp)) {
    p_le := by omega
    act_le := hact
    draws_eq := by simp [hp]
    built := by simp [hp, performing]
    drawn_lt := by simp [hp]
    waitWr_action := by simp [hp]
    waitTick_action := by simp [hp]
    fc_le := fun _ => h.fc_le }

/-- The frame that the mode builds stands in `ACT`, `S` and `T` (R132). -/
def HoldsFrame (s : State) : Prop :=
  modeFrame (decodeMode s.status.mode) s = .ok ⟨s.eng.act, s.eng.src, s.eng.tgt⟩

/-- While a frame is performed, its list is the built one. -/
theorem frameInv_of_performing {s : State} (h : RunInv s) (hp : performing s.eng.phase = true) (hb : HoldsFrame s)
    (hle : s.eng.p ≤ s.eng.act.length)
    (hw : s.eng.phase = .waitWr → s.eng.act[s.eng.p]? = some (.wr s.eng.wrb.lane s.eng.wrb.value) ∧
      s.port.wrCh = channelOf s.eng.wrb.lane s.cfg.channels ∧ s.port.wrOff = toDuty s.eng.wrb.value)
    (ht : s.eng.phase = .waitTick →
      ∃ t : Word, s.eng.act[s.eng.p]? = some (.wt t) ∧ s.eng.dly.toNat ≤ t.toNat) : FrameInv s where
  p_le := hle
  act_le := modeFrame_length_le (isMode_decodeMode _) hb
  draws_eq := by rintro hd; rw [hd] at hp; cases hp
  built := fun _ => hb
  drawn_lt := by rintro hd; rw [hd] at hp; cases hp
  waitWr_action := hw
  waitTick_action := ht
  fc_le := fun _ => h.fc_le

/-- ISSUE and END, with the frame built. -/
theorem inv_of_issue {s : State} (h : RunInv s) (hq : Quiet s) (hp : s.eng.phase = .issue ∨ s.eng.phase = .finish)
    (hb : HoldsFrame s) (hle : s.eng.p ≤ s.eng.act.length) : PabInv s := by
  refine inv_of_runInv h (phaseInv_of_quiet h.running hq (.inr hp)) (frameInv_of_performing h ?_ hb hle ?_ ?_)
  all_goals rcases hp with hp | hp <;> simp [hp, performing]

/-! ### A frame's begin and its draws -/

/-- The frame just built is taken, and the ENGINE issues from its first action (R132). -/
theorem inv_takeFrame {s : State} {r : Frame} (h : RunInv s) (hq : Quiet s)
    (hf : modeFrame (decodeMode s.status.mode) s = .ok r) : PabInv (takeFrame r s) :=
  inv_of_issue (runInv_congr h rfl rfl rfl rfl rfl rfl rfl) ⟨hq.wrReq, hq.rndReq, hq.dlyActive, hq.dly, hq.wrOn⟩
    (.inl rfl) (modeFrame_withColors (isMode_decodeMode _) hf) (Nat.zero_le _)

/-- DRAW, with draws still to be answered (R131, R132). -/
theorem inv_of_draw {s : State} (h : RunInv s) (hp : s.eng.phase = .draw) (hwr : s.port.wrReq = false)
    (hrnd : s.port.rndReq = true) (hact : s.eng.dlyActive = false) (hdly : s.eng.dly = 0) (hon : s.port.wrOn = 0)
    (hple : s.eng.p ≤ s.eng.act.length) (hale : s.eng.act.length ≤ 1536)
    (hdl : s.eng.dl = drawTable (decodeMode s.status.mode) s) (hq : s.eng.q < s.eng.dl.length)
    (hd : ∀ k : Fin 6, k.val < s.eng.q → ∀ n, s.eng.dl[k.val]? = some n → s.eng.dv[k].toNat < n) : PabInv s :=
  inv_of_runInv h
    { idle_iff := by simp [hp, h.running]
      wrReq_iff := by simp [hp, hwr]
      rndReq_iff := by simp [hp, hrnd]
      dlyActive_iff := by simp [hp, hact]
      dly_zero_iff := by simp [hp, hdly]
      wrOn_zero := hon
      stop_running := fun _ => h.running }
    { p_le := hple
      act_le := hale
      draws_eq := fun _ => ⟨hdl, hq⟩
      built := by simp [hp, performing]
      drawn_lt := fun _ => hd
      waitWr_action := by simp [hp]
      waitTick_action := by simp [hp]
      fc_le := fun _ => h.fc_le }

theorem inv_requestDraws {s : State} (h : PabInv s) (hr : s.status.state = .running) (hp : s.eng.phase = .begin)
    (hd : modeDraws (decodeMode s.status.mode) s ≠ []) :
    PabInv (requestDraws (setDraws (modeDraws (decodeMode s.status.mode) s) s)) := by
  have hq := quiet_of_inv h (by simp [hp]) (by simp [hp]) (by simp [hp])
  exact inv_of_draw (runInv_congr (runInv_of_inv h hr) rfl rfl rfl rfl rfl rfl rfl) rfl hq.wrReq rfl hq.dlyActive hq.dly
    hq.wrOn (Nat.zero_le _) h.frame.act_le (modeDraws_eq_drawTable (isMode_decodeMode _) s)
    (List.length_pos_of_ne_nil hd) (fun k hk => absurd hk (Nat.not_lt_zero _))

theorem drawn_toNat_lt (w : Word) {n : Nat} (h0 : n ≠ 0) : (BitVec.ofNat 32 (w.toNat % n)).toNat < n := by
  rw [BitVec.toNat_ofNat]
  exact (Nat.mod_le _ _).trans_lt (Nat.mod_lt _ (Nat.pos_of_ne_zero h0))

/-- A random answer that is not the frame's last one (R132). -/
theorem inv_fillDraw {s : State} {v : Word} {n : Nat} (h : PabInv s) (hp : s.eng.phase = .draw)
    (hn : s.eng.dl[s.eng.q]? = some n) (hv : v.toNat < n) (hq : s.eng.q + 1 ≠ s.eng.dl.length) :
    PabInv (fillDraw v s) := by
  have hr := running_of_phase h (by simp [hp])
  obtain ⟨hdl, hlt⟩ := h.frame.draws_eq hp
  have hreq := h.phase.rndReq_iff.mpr hp
  have hwr := wrReq_false h (by simp [hp])
  have hact := dlyActive_false h (by simp [hp])
  have hdly := h.phase.dly_zero_iff.mpr (by simp [hp])
  refine inv_of_draw (runInv_congr (runInv_of_inv h hr) rfl rfl rfl rfl rfl rfl rfl) hp hwr (by simp [hq, hreq]) hact
    hdly h.phase.wrOn_zero h.frame.p_le h.frame.act_le hdl (Nat.lt_of_le_of_ne hlt hq) fun k hk m hm => ?_
  rw [fillDraw_dv]
  split
  · rename_i hkq
    have hm : s.eng.dl[k.val]? = some m := hm
    rw [hkq, hn] at hm
    cases hm
    exact hv
  · have hk : k.val < s.eng.q + 1 := hk
    exact h.frame.drawn_lt hp k (by omega) m hm

theorem inv_randomMove {w : Word} {s t : State} (h : PabInv s) (m : RandomMove w s t) : PabInv t := by
  cases m with
  | ignored => exact h
  | drawn hp _ n hn h0 hq => exact inv_fillDraw h hp hn (drawn_toNat_lt w h0) hq
  | last hp _ n _ _ hq _ ht =>
    obtain ⟨r, hf, rfl⟩ := exec_mode_of_drawn (isMode_decodeMode _) (s := fillDraw _ s) hp hq ht
    have hr := running_of_phase h (by simp [hp])
    have hwr := wrReq_false h (by simp [hp])
    have hact := dlyActive_false h (by simp [hp])
    have hdly := h.phase.dly_zero_iff.mpr (by simp [hp])
    exact inv_takeFrame (runInv_congr (runInv_of_inv h hr) rfl rfl rfl rfl rfl rfl rfl)
      ⟨hwr, by simp [hq], hact, hdly, h.phase.wrOn_zero⟩ hf

/-! ### A frame's end -/

/-- The next in-order index is below the length (R10, R39). -/
theorem commitSeqIndex_ok {s s' : State} (h : commitSeqIndex s = .ok s') :
    ∃ j : BitVec 6, j.toNat < s.cfg.seqLen.toNat ∧ s' = { s with eng := { s.eng with iSeq := j } } := by
  unfold commitSeqIndex nextIndex at h
  split at h
  · cases h
  · rename_i j hj
    split at hj <;> cases hj
    cases h
    refine ⟨_, ?_, rfl⟩
    rw [BitVec.toNat_ofNat]
    exact (Nat.mod_le _ _).trans_lt (Nat.mod_lt _ (by omega))

/-- The next interval index is below the length where the interval sequence is in use (R40, R142). -/
theorem commitIntIndex_ok {s s' : State} (h : commitIntIndex s = .ok s') :
    (useInt s = true ∧
      ∃ j : BitVec 6, j.toNat < s.cfg.intLen.toNat ∧ s' = { s with eng := { s.eng with iInt := j } }) ∨
    (useInt s = false ∧ s' = s) := by
  unfold commitIntIndex nextIndex at h
  split at h
  · rename_i hu
    split at h
    · cases h
    · rename_i j hj
      split at hj <;> cases hj
      cases h
      refine .inl ⟨hu, _, ?_, rfl⟩
      rw [BitVec.toNat_ofNat]
      exact (Nat.mod_le _ _).trans_lt (Nat.mod_lt _ (by omega))
  · rename_i hu
    cases h
    exact .inr ⟨by simpa using hu, rfl⟩

/-- The mode's commit keeps the indices below their lengths (R39, R40, R139, R140, R142). -/
theorem indexInv_modeCommit {s s' : State} (h : IndexInv s)
    (hc : modeCommit (decodeMode s.status.mode) s = .ok s') : IndexInv s' := by
  have hsource (hc : commitSource s = .ok s') : IndexInv s' := by
    cases hc
    exact indexInv_congr h rfl rfl rfl rfl
  have hnothing (hc : commitNothing s = .ok s') : IndexInv s' := by
    cases hc
    exact h
  have hseq (hi : isInOrder (decodeMode s.status.mode) = true) (hc : commitSeqIndex s = .ok s') : IndexInv s' := by
    obtain ⟨j, hj, rfl⟩ := commitSeqIndex_ok hc
    exact ⟨fun _ _ => hj, fun _ ho => absurd (hi.symm.trans ho) (by simp), h.iInt_lt, h.iInt_zero⟩
  have hint (hi : decodeMode s.status.mode = .mRandom) (hc : commitIntIndex s = .ok s') : IndexInv s' := by
    rcases commitIntIndex_ok hc with ⟨hu, j, hj, rfl⟩ | ⟨-, rfl⟩
    · exact ⟨h.iSeq_lt, h.iSeq_zero, fun _ _ _ => hj, fun _ hn => absurd ⟨hi, hu⟩ hn⟩
    · exact h
  cases hm : decodeMode s.status.mode <;> rw [hm] at hc
  case mSeqSoftRandom | mRandomSoft => exact hsource hc
  case mSeqSoft | mSequence => exact hseq (by rw [hm]; rfl) hc
  case mRandom => exact hint hm hc
  all_goals exact hnothing hc

/-- The end of a frame, with the indices committed (R135). -/
theorem inv_closeFrame {s : State} (h : RunInv s) (hq : Quiet s) (hact : s.eng.act.length ≤ 1536) :
    PabInv (closeFrame s) := by
  unfold closeFrame
  split
  · exact inv_endRun rfl h.running (modeInv_congr h.mode rfl rfl) h.mem h.windows hq.wrOn
  · rename_i hfc
    have hle := h.fc_le
    have hpos : s.eng.fc.toNat ≠ 0 := fun h0 => hfc (BitVec.eq_of_toNat_eq h0)
    have hfc_le : (s.eng.fc - 1).toNat ≤ s.cfg.frameCount.toNat := by bv_omega
    exact inv_of_begin
      { running := h.running, mode := modeInv_congr h.mode rfl rfl, index := indexInv_congr h.index rfl rfl rfl rfl
        mem := h.mem, windows := h.windows, ready := h.ready, fc_le := hfc_le }
      ⟨hq.wrReq, hq.rndReq, hq.dlyActive, hq.dly, hq.wrOn⟩ rfl rfl hact

theorem inv_modeCommit {s s' : State} (h : PabInv s) (hr : s.status.state = .running) (hp : s.eng.phase = .finish)
    (hc : modeCommit (decodeMode s.status.mode) s = .ok s') : PabInv (closeFrame s') := by
  have hrun := runInv_of_inv h hr
  have hq := quiet_of_inv h (by simp [hp]) (by simp [hp]) (by simp [hp])
  have hindex := indexInv_modeCommit h.index hc
  obtain ⟨src, a, b, rfl⟩ := modeCommit_keeps hc
  exact inv_closeFrame
    { running := hr, mode := modeInv_congr h.mode rfl rfl, index := hindex, mem := h.mem, windows := h.windows
      ready := hrun.ready, fc_le := hrun.fc_le }
    ⟨hq.wrReq, hq.rndReq, hq.dlyActive, hq.dly, hq.wrOn⟩ h.frame.act_le

/-! ### The ENGINE -/

/-- A frame operation at a frame's begin and end (R131, R135). -/
theorem inv_exec_mode {s t : State} (h : PabInv s) (hr : s.status.state = .running)
    (ht : exec (decodeMode s.status.mode) s = .next t) : PabInv t := by
  cases exec_mode_cases (isMode_decodeMode _) ht with
  | nothing => exact h
  | cancelled => exact inv_endRun rfl hr h.mode h.mem h.windows h.phase.wrOn_zero
  | requested hp _ hd => exact inv_requestDraws h hr hp hd
  | builtAtOnce hp _ _ r hf =>
    have hq := quiet_of_inv h (by simp [hp]) (by simp [hp]) (by simp [hp])
    exact inv_takeFrame (runInv_congr (runInv_of_inv h hr) rfl rfl rfl rfl rfl rfl rfl)
      ⟨hq.wrReq, hq.rndReq, hq.dlyActive, hq.dly, hq.wrOn⟩ hf
  | built hp hq => exact absurd hq (h.frame.draws_eq hp).2.ne
  | closed hp s' hc => exact inv_modeCommit h hr hp hc

/-- A wait action is completed at once or begins to be counted (R134). -/
theorem inv_startWait {s : State} {w : Word} (h : PabInv s) (hr : s.status.state = .running)
    (hp : s.eng.phase = .issue) (ha : s.eng.act[s.eng.p]? = some (.wt w)) : PabInv (startWait w s) := by
  have hq := quiet_of_inv h (by simp [hp]) (by simp [hp]) (by simp [hp])
  have hrun := runInv_of_inv h hr
  obtain ⟨hlt, -⟩ := List.getElem?_eq_some_iff.mp ha
  have hb : HoldsFrame s := h.frame.built (by rw [hp]; rfl)
  by_cases hw : w = 0
  · rw [startWait, if_pos hw]
    exact inv_of_issue (runInv_congr hrun rfl rfl rfl rfl rfl rfl rfl)
      ⟨hq.wrReq, hq.rndReq, hq.dlyActive, hq.dly, hq.wrOn⟩ (.inl rfl) hb hlt
  · have hne : w ≠ 0#32 := hw
    have hrun' : RunInv (waitBegun w s) := runInv_congr hrun rfl rfl rfl rfl rfl rfl rfl
    rw [startWait_of_ne_zero hw]
    refine inv_of_runInv hrun' ?_ (frameInv_of_performing hrun' rfl hb h.frame.p_le (by simp [waitBegun]) ?_)
    · constructor <;> simp [waitBegun, hr, hne, hq.wrReq, hq.rndReq, hq.wrOn]
    · exact fun _ => ⟨w, ha, Nat.le_refl _⟩

theorem inv_issueWrite {s : State} {x : Lane} {v : Byte} (h : PabInv s) (hr : s.status.state = .running)
    (hp : s.eng.phase = .issue) (ha : s.eng.act[s.eng.p]? = some (.wr x v)) :
    PabInv (issueWrite (channelOf x s.cfg.channels) (toDuty v) (latchWrite x v s)) := by
  have hq := quiet_of_inv h (by simp [hp]) (by simp [hp]) (by simp [hp])
  have hrun : RunInv (issueWrite (channelOf x s.cfg.channels) (toDuty v) (latchWrite x v s)) :=
    runInv_congr (runInv_of_inv h hr) rfl rfl rfl rfl rfl rfl rfl
  have hb : HoldsFrame s := h.frame.built (by rw [hp]; rfl)
  refine inv_of_runInv hrun ?_ (frameInv_of_performing hrun rfl hb h.frame.p_le ?_ (by simp))
  · constructor <;> simp [hr, hq.rndReq, hq.dlyActive, hq.dly]
  · exact fun _ => ⟨ha, rfl, rfl⟩

theorem inv_engineMove {s t : State} (h : PabInv s) (m : EngineMove s t) : PabInv t := by
  cases m with
  | nothing => exact h
  | mode hr _ _ ht => exact inv_exec_mode h hr ht
  | write hr hp x v ha => exact inv_issueWrite h hr hp ha
  | wait hr hp w ha => exact inv_startWait h hr hp ha
  | listEnd hr hp =>
    have hq := quiet_of_inv h (by simp [hp]) (by simp [hp]) (by simp [hp])
    have hb : HoldsFrame s := h.frame.built (by rw [hp]; rfl)
    exact inv_of_issue (runInv_congr (runInv_of_inv h hr) rfl rfl rfl rfl rfl rfl rfl)
      ⟨hq.wrReq, hq.rndReq, hq.dlyActive, hq.dly, hq.wrOn⟩ (.inr rfl) hb h.frame.p_le

/-! ### The DRIVER and the TIMEBASE -/

/-- Behind the port an answer changes the chip alone, and the DRIVER stays set up (R177). -/
theorem chipAnswered_eq (f : Bool) (s : State) :
    ∃ d : Driver, d.ready = s.drv.ready ∧ chipAnswered f s = { s with drv := d } := by
  refine ⟨(chipAnswered f s).drv, ?_, rfl⟩
  cases f <;> simp [chipAnswered]

/-- An answer completes the write action or ends the run (R133, R202). -/
theorem inv_respond {s : State} (h : PabInv s) (hp : s.eng.phase = .waitWr) (f : Bool) : PabInv (respond f s) := by
  have hr := running_of_phase h (by simp [hp])
  cases f with
  | true => exact inv_endRun rfl hr (modeInv_congr h.mode rfl rfl) h.mem h.windows h.phase.wrOn_zero
  | false =>
    have hb : HoldsFrame s := h.frame.built (by rw [hp]; rfl)
    obtain ⟨haction, -⟩ := h.frame.waitWr_action hp
    obtain ⟨hlt, -⟩ := List.getElem?_eq_some_iff.mp haction
    have hrnd := rndReq_false h (by simp [hp])
    have hact := dlyActive_false h (by simp [hp])
    have hdly := h.phase.dly_zero_iff.mpr (by simp [hp])
    exact inv_of_issue (runInv_congr (runInv_of_inv h hr) rfl rfl rfl rfl rfl rfl rfl)
      ⟨rfl, hrnd, hact, hdly, h.phase.wrOn_zero⟩ (.inl rfl) hb hlt

theorem inv_driverMove {f : Bool} {s t : State} (h : PabInv s) (m : DriverMove f s t) : PabInv t := by
  cases m with
  | ignored => exact h
  | answered hp _ hd =>
    obtain ⟨d, hready, heq⟩ := chipAnswered_eq f s
    rw [heq]
    exact inv_respond (inv_unread h _ _ _ _ _ _ fun _ => hready.trans hd) hp f

/-- A pulse counts a wait down, and the last one completes it (R134). -/
theorem inv_tickPulse {s : State} (h : PabInv s) : PabInv (tickPulse s) := by
  by_cases hp : s.eng.phase = .waitTick
  swap
  · rw [tickPulse, if_neg hp]
    exact h
  have hr := running_of_phase h (by simp [hp])
  have hrun := runInv_of_inv h hr
  have hb : HoldsFrame s := h.frame.built (by rw [hp]; rfl)
  have hwr := wrReq_false h (by simp [hp])
  have hrnd := rndReq_false h (by simp [hp])
  obtain ⟨w, ha, hle⟩ := h.frame.waitTick_action hp
  obtain hd | ⟨n, hd⟩ : s.eng.dly.toNat = 1 ∨ ∃ n, s.eng.dly.toNat = n + 2 := by
    have h0 : s.eng.dly ≠ 0 := mt h.phase.dly_zero_iff.mp (by simp [hp])
    have : s.eng.dly.toNat ≠ 0 := fun hz => h0 (BitVec.eq_of_toNat_eq hz)
    exact (Nat.lt_or_ge 1 s.eng.dly.toNat).symm.imp (by omega) fun hlt => ⟨s.eng.dly.toNat - 2, by omega⟩
  · obtain ⟨hlt, -⟩ := List.getElem?_eq_some_iff.mp ha
    rw [tickPulse_last hp hd]
    exact inv_of_issue (runInv_congr hrun rfl rfl rfl rfl rfl rfl rfl) ⟨hwr, hrnd, rfl, rfl, h.phase.wrOn_zero⟩
      (.inl rfl) hb hlt
  · obtain ⟨d, hd', heq⟩ := tickPulse_more hp hd
    have hne : d ≠ 0#32 := by rintro rfl; cases hd'
    have hrun' : RunInv { s with eng := { s.eng with dly := d } } := runInv_congr hrun rfl rfl rfl rfl rfl rfl rfl
    rw [heq]
    refine inv_of_runInv hrun' { h.phase with dly_zero_iff := by simp [hp, hne] }
      (frameInv_of_performing hrun' (by rw [hp]; rfl) hb h.frame.p_le (by simp [hp]) fun _ => ⟨w, ha, ?_⟩)
    dsimp only
    omega

/-! ### The HOST -/

/-- `START` begins a run at frame 0 of the resolved mode (R121). -/
theorem inv_startRun {s : State} (h : PabInv s) (hp : startPermitted s.status.state = true)
    (hd : s.drv.ready = true) : PabInv (startRun s) := by
  have hs : s.status.state ≠ .running := by rintro hs; rw [hs] at hp; cases hp
  have hvalid : s.status.modeValid = true := by
    rw [h.mode.modeValid_eq]
    revert hp
    cases s.status.state <;> simp [startPermitted, stateHasMode]
  have hnone : s.status.cfgErr = .none :=
    h.mode.cfgErr_none_iff.mpr (by rintro hs; rw [hs] at hp; cases hp)
  have hres := h.mode.resolved hvalid
  have hrest := atRest_of_inv h hs
  have hmode : ModeInv (startRun s) := by
    constructor <;> simp [stateHasMode, hvalid, hnone, hres]
  obtain ⟨-, hseq, -, hcascade⟩ := resolve_ok hres
  have hindex : IndexInv (startRun s) := by
    refine ⟨fun _ hi => ?_, fun _ _ => rfl, fun _ _ hu => ?_, fun _ _ => rfl⟩
    · exact (hseq (resolveCascade_sequence hcascade (isSequenceMode_of_isInOrder hi))).1
    · exact Nat.pos_of_ne_zero fun h0 => ((useInt_iff _).mp hu).2 (BitVec.eq_of_toNat_eq h0)
  exact inv_of_begin ⟨rfl, hmode, hindex, h.mem, h.windows, hd, Nat.le_refl _⟩
    ⟨hrest.wrReq, hrest.rndReq, hrest.dlyActive, rfl, hrest.wrOn⟩ rfl rfl (Nat.zero_le _)

/-- The stop flag is set in a run alone (R122). -/
theorem inv_requestStop {s : State} (h : PabInv s) (hr : s.status.state = .running) : PabInv (requestStop s) where
  phase := { h.phase with stop_running := fun _ => hr }
  mode := { h.mode with }
  frame := { h.frame with
    draws_eq := h.frame.draws_eq
    built := h.frame.built }
  index := { h.index with }
  mem := h.mem
  windows := h.windows
  driverReady := h.driverReady

theorem inv_cmdMove {w : Word} {s t : State} (h : PabInv s) (m : CmdMove w s t) : PabInv t := by
  cases m with
  | noEffect => exact h
  | configured _ hs => exact inv_configured h hs
  | started _ hp hd => exact inv_startRun h hp hd
  | stopRequested _ hs => exact inv_requestStop h hs
  | flagsCleared | rejected => exact inv_unread h _ _ _ _ _ _ h.driverReady

theorem inv_hostMove {a : HostAccess} {s t : State} (h : PabInv s) (m : HostMove a s t) : PabInv t := by
  cases m with
  | command rd _ _ _ m => exact inv_cmdMove (inv_strobed h rd) m
  | ignored rd | convIn rd =>
    have hs := inv_strobed h rd
    exact inv_unread hs _ _ _ _ _ _ hs.driverReady
  | stored rd r v _ _ hs => exact inv_stored (inv_strobed h rd) (by simpa using hs) r v
  | answered _ x => exact inv_setRdata h x

/-- Settles O51, by the agent whose step it is. -/
theorem everyStepKeepsTheInvariants : Obligations.EveryStepKeepsTheInvariants := by
  unfold Obligations.EveryStepKeepsTheInvariants
  intro s t hinv h
  have hp := inv_popped hinv
  cases step_cases h with
  | engine _ _ m => exact inv_engineMove hp m
  | reset => exact inv_resetStep _
  | host _ _ _ _ m => exact inv_hostMove hp (hostStep_moves m)
  | driver _ _ _ _ m => exact inv_driverMove hp m
  | tick => exact inv_tickPulse hp
  | random _ _ _ _ m => exact inv_randomMove hp m
  | env d hd => exact inv_unread hp _ _ _ _ _ _ fun _ => hd

end Sys2Proof.Proofs
end

section
/-! PROOFS. What the host reads: the registers, the memories and the fields of `STATUS` (R20 to R44, R63; O7, O9,
O10). -/

namespace Sys2Proof.Proofs

open Sys2Proof.Machine Sys2Proof.Safety Sys2Proof.Laws

/-- A read at a register's offset answers the register. -/
theorem memRead_regOffset (r : Reg) (s : State) : memRead (regOffset r) s = readReg r s := by
  rw [memRead, regAt_regOffset]

/-- Settles O7: each converter operation is defined so. -/
theorem converterReads : Obligations.ConverterReads := by
  unfold Obligations.ConverterReads
  exact ⟨fun _ => rfl, fun _ => rfl, fun _ => rfl⟩

/-- The colour of a word of four bytes: its reserved byte is no part of it (R81). -/
theorem wordColor_append (b3 b2 b1 b0 : Byte) : wordColor (b3 ++ b2 ++ b1 ++ b0) = ⟨b0, b1, b2⟩ := by
  simp only [wordColor, Color.mk.injEq]
  refine ⟨BitVec.extractLsb'_append_eq_right, ?_, ?_⟩
  · rw [BitVec.extractLsb'_append_eq_of_le (by decide)]
    exact BitVec.extractLsb'_append_eq_right
  · rw [BitVec.extractLsb'_append_eq_of_le (by decide), BitVec.extractLsb'_append_eq_of_le (by decide)]
    exact BitVec.extractLsb'_append_eq_right

/-- The two memories answer the bytes of their window (R44; log 4). -/
theorem readReg_ram (s : State) (n : BitVec 6) :
    readReg (.seqRam n) s =
      0#8 ++ readByte s (0x102 + 4 * n.toNat) ++ readByte s (0x101 + 4 * n.toNat) ++ readByte s (0x100 + 4 * n.toNat) ∧
    readReg (.intRam n) s =
      readByte s (0x203 + 4 * n.toNat) ++ readByte s (0x202 + 4 * n.toNat) ++
        readByte s (0x201 + 4 * n.toNat) ++ readByte s (0x200 + 4 * n.toNat) := by
  have hbase (a k : Nat) : a + 4 * n.toNat + k = a + k + 4 * n.toNat := by omega
  constructor
  · simp only [readReg, seqEntry, readMemWord, wordColor_append, colorWord, seqAddr, hbase]
  · simp only [readReg, intEntry, readMemWord, intAddr, hbase]

/-- Settles O9, register by register. -/
theorem readsAnswerAndChangeNothing : Obligations.ReadsAnswerAndChangeNothing := by
  unfold Obligations.ReadsAnswerAndChangeNothing
  refine ⟨fun s a => hostRead_eq a s, fun s => ?_, fun s n => ?_⟩
  · exact ⟨memRead_regOffset .flags s, memRead_regOffset .channels s, memRead_regOffset .rgb s,
      memRead_regOffset .startColor s, memRead_regOffset .interval s, memRead_regOffset .frameCount s,
      memRead_regOffset .seqLen s, memRead_regOffset .intLen s, memRead_regOffset .frameRemain s,
      memRead_regOffset .seqIndex s, memRead_regOffset .intIndex s, memRead_regOffset .curColor s,
      memRead_regOffset .caps s⟩
  · obtain ⟨hseq, hint⟩ := readReg_ram s n
    exact ⟨(memRead_regOffset (.seqRam n) s).trans hseq, (memRead_regOffset (.intRam n) s).trans hint⟩

/-- The one-bit fields of `STATUS` (R22, R23, R25 to R29). -/
theorem statusWord_bits (s : State) :
    (statusWord s).getLsbD 3 = false ∧ (statusWord s).getLsbD 7 = s.status.modeValid ∧
    (statusWord s).getLsbD 12 = s.status.cmdErr ∧ (statusWord s).getLsbD 13 = s.status.wrIgnored ∧
    (statusWord s).getLsbD 14 = s.eng.stop ∧ (statusWord s).getLsbD 15 = s.port.wrReq ∧
    (statusWord s).getLsbD 16 = s.eng.dlyActive := by
  simp only [statusWord, BitVec.getLsbD_append]
  simp

/-- The wider fields of `STATUS` (R22, R23, R24, R63). -/
theorem statusWord_fields (s : State) :
    (statusWord s).extractLsb' 0 3 = stateCode s.status.state ∧ (statusWord s).extractLsb' 4 3 = s.status.mode ∧
    (statusWord s).extractLsb' 8 4 = cfgErrCode s.status.cfgErr ∧ (statusWord s).extractLsb' 17 15 = 0 := by
  unfold statusWord
  refine ⟨BitVec.extractLsb'_append_eq_right, ?_, ?_, ?_⟩
  · iterate 2 rw [BitVec.extractLsb'_append_eq_of_le (by decide)]
    exact BitVec.extractLsb'_append_eq_right
  · iterate 4 rw [BitVec.extractLsb'_append_eq_of_le (by decide)]
    exact BitVec.extractLsb'_append_eq_right
  · iterate 10 rw [BitVec.extractLsb'_append_eq_of_le (by decide)]
    exact BitVec.extractLsb'_eq_self

/-- Settles O10, from the fields of the status word and the values of its two codes. -/
theorem statusWordFields : Obligations.StatusWordFields := by
  unfold Obligations.StatusWordFields
  intro s
  obtain ⟨h3, h7, h12, h13, h14, h15, h16⟩ := statusWord_bits s
  obtain ⟨hstate, hmode, herr, hzero⟩ := statusWord_fields s
  rw [show memRead 0x004 s = statusWord s from memRead_regOffset .status s]
  refine ⟨?_, h3, hmode, h7, ?_, h12, h13, h14, h15, h16, hzero⟩
  · rw [hstate]
    cases s.status.state <;> rfl
  · rw [herr]
    cases s.status.cfgErr <;> rfl

end Sys2Proof.Proofs
end

section
/-! PROOFS. What belongs to the HOST: the configuration, the memories, `CONV_IN` and the sticky bits change by host
accesses and resets alone (R25, R26, R42, R50, R66; O8, O46, O53). -/

namespace Sys2Proof.Proofs

open Sys2Proof.Machine Sys2Proof.Safety Sys2Proof.Laws

/-! ### The steps of the other agents -/

/-- The configuration, the memories and `CONV_IN` are as before. -/
structure KeepsConfig (s t : State) : Prop where
  cfg : t.cfg = s.cfg
  mem : t.mem = s.mem
  resets : t.resets = s.resets
  convIn : t.convIn = s.convIn

/-- The configuration, the memories, `CONV_IN` and the sticky bits are as before. -/
structure KeepsHostSide (s t : State) : Prop extends KeepsConfig s t where
  cmdErr : t.status.cmdErr = s.status.cmdErr
  wrIgnored : t.status.wrIgnored = s.status.wrIgnored

theorem keepsHostSide_of_eq {s t : State} (hcfg : t.cfg = s.cfg) (hmem : t.mem = s.mem) (hresets : t.resets = s.resets)
    (hconv : t.convIn = s.convIn) (hcmd : t.status.cmdErr = s.status.cmdErr)
    (hwr : t.status.wrIgnored = s.status.wrIgnored) : KeepsHostSide s t :=
  { cfg := hcfg, mem := hmem, resets := hresets, convIn := hconv, cmdErr := hcmd, wrIgnored := hwr }

theorem closeFrame_keeps (s : State) : KeepsHostSide s (closeFrame s) := by
  unfold closeFrame
  split <;> exact keepsHostSide_of_eq rfl rfl rfl rfl rfl rfl

theorem exec_mode_keeps {i : Instr} (hi : isMode i = true) {s t : State} (h : exec i s = .next t) :
    KeepsHostSide s t := by
  cases exec_mode_cases hi h with
  | closed _ s' hc =>
    obtain ⟨src, a, b, rfl⟩ := modeCommit_keeps hc
    exact { closeFrame_keeps _ with }
  | cancelled | requested | builtAtOnce | built | nothing => exact keepsHostSide_of_eq rfl rfl rfl rfl rfl rfl

theorem startWait_keeps (w : Word) (s : State) : KeepsHostSide s (startWait w s) := by
  unfold startWait
  split <;> exact keepsHostSide_of_eq rfl rfl rfl rfl rfl rfl

theorem tickPulse_keeps (s : State) : KeepsHostSide s (tickPulse s) := by
  unfold tickPulse
  split
  · dsimp only
    split <;> exact keepsHostSide_of_eq rfl rfl rfl rfl rfl rfl
  · exact keepsHostSide_of_eq rfl rfl rfl rfl rfl rfl

theorem engineMove_keeps {s t : State} (m : EngineMove s t) : KeepsHostSide s t := by
  cases m with
  | mode _ _ _ h => exact exec_mode_keeps (isMode_decodeMode _) h
  | wait _ _ w _ => exact startWait_keeps w s
  | listEnd | write | nothing => exact keepsHostSide_of_eq rfl rfl rfl rfl rfl rfl

theorem randomMove_keeps {w : Word} {s t : State} (m : RandomMove w s t) : KeepsHostSide s t := by
  cases m with
  | last _ _ _ _ _ _ _ ht => exact { exec_mode_keeps (isMode_decodeMode _) ht with }
  | ignored | drawn => exact keepsHostSide_of_eq rfl rfl rfl rfl rfl rfl

theorem driverMove_keeps {f : Bool} {s t : State} (m : DriverMove f s t) : KeepsHostSide s t := by
  cases m with
  | ignored => exact keepsHostSide_of_eq rfl rfl rfl rfl rfl rfl
  | answered =>
    obtain ⟨d, -, heq⟩ := chipAnswered_eq f s
    rw [heq]
    cases f <;> exact keepsHostSide_of_eq rfl rfl rfl rfl rfl rfl

/-- A step is a reset, a host access, or a step of another agent, which leaves the HOST's side as it was. -/
inductive StepEffect (s : State) : State → Prop where
  | reset (he : nextEvent s = .reset) : StepEffect s (resetStep (popped s))
  | host (a : HostAccess) (he : nextEvent s = .host a) (t : State) (m : HostMove a (popped s) t) : StepEffect s t
  | other (hr : nextEvent s ≠ .reset) (hh : ∀ a, nextEvent s ≠ .host a) (t : State) (hk : KeepsHostSide (popped s) t) :
      StepEffect s t

theorem step_effect {s t : State} (h : step s = .next t) : StepEffect s t := by
  have other {e : Event} (he : nextEvent s = e) (hr : e ≠ .reset) (hh : ∀ a, e ≠ .host a)
      (hk : KeepsHostSide (popped s) t) : StepEffect s t := .other (by rwa [he]) (by rwa [he]) t hk
  cases step_cases h with
  | reset r ht => exact .reset (nextEvent_of_tape_cons ht)
  | host a r ht _ m => exact .host a (nextEvent_of_tape_cons ht) t (hostStep_moves m)
  | engine ht _ m => exact other (nextEvent_eq_engine ht) (by simp) (by simp) (engineMove_keeps m)
  | driver f r ht _ m => exact other (nextEvent_of_tape_cons ht) (by simp) (by simp) (driverMove_keeps m)
  | tick r ht => exact other (nextEvent_of_tape_cons ht) (by simp) (by simp) (tickPulse_keeps _)
  | random w r ht _ m => exact other (nextEvent_of_tape_cons ht) (by simp) (by simp) (randomMove_keeps m)
  | env d _ ht =>
    have hk := keepsHostSide_of_eq (s := popped s) (t := { popped s with drv := d }) rfl rfl rfl rfl rfl rfl
    rcases ht with ⟨r, ht⟩ | ⟨hz, r, ht⟩
    · exact other (nextEvent_of_tape_cons ht) (by simp) (by simp) hk
    · exact other (nextEvent_of_tape_cons ht) (by simp) (by simp) hk

/-! ### Commands -/

/-- No command changes the configuration, the memories or `CONV_IN`. -/
theorem cmdMove_keeps {w : Word} {s t : State} (m : CmdMove w s t) : KeepsConfig s t := by
  cases m with
  | configured =>
    rcases configured_cases s with ⟨m, -, hc⟩ | ⟨-, hc⟩ <;> rw [hc] <;> exact ⟨rfl, rfl, rfl, rfl⟩
  | noEffect | started | stopRequested | flagsCleared | rejected => exact ⟨rfl, rfl, rfl, rfl⟩

/-- Host accesses in a run keep the configuration and the memories: the configuration writes are ignored (R66). -/
theorem hostMove_running_keeps {a : HostAccess} {s t : State} (m : HostMove a s t) (hr : s.status.state = .running) :
    t.cfg = s.cfg ∧ t.mem = s.mem ∧ t.resets = s.resets := by
  cases m with
  | command rd w _ _ m =>
    have hk := cmdMove_keeps m
    exact ⟨by simp [hk.cfg], by simp [hk.mem], by simp [hk.resets]⟩
  | stored _ _ _ _ _ hs => exact absurd hr hs
  | ignored | convIn | answered => simp

/-! ### `CONV_IN` -/

theorem storeReg_convIn {r : Reg} (hr : regAccess r = .cfg) (v : Word) (s : State) :
    (storeReg r v s).convIn = s.convIn := by
  cases r
  case convIn => cases hr
  all_goals rfl

/-- Of the accesses only a write at its own offset changes `CONV_IN` (R42). -/
theorem hostMove_convIn {a : HostAccess} {s t : State} (m : HostMove a s t) :
    t.convIn = s.convIn ∨ ∃ (rd : Bool) (v : Word), a = ⟨true, rd, 0x038, v, .word⟩ := by
  cases m with
  | command rd w _ _ m => exact .inl (by simp [(cmdMove_keeps m).convIn])
  | stored rd r v _ hr => exact .inl (by simp [storeReg_convIn hr])
  | convIn rd v ha => exact .inr ⟨rd, v, ha⟩
  | ignored | answered => exact .inl (by simp)

theorem hostWriteStep_convIn (v : Word) (s : State) :
    hostWriteStep 0x038 v s = .next { s with convIn := wordColor v } := by
  have ha : regAt 0x038 = some .convIn := regAt_regOffset .convIn
  rw [hostWriteStep_eq, hostWrite, if_neg (by rw [ha]; simp), memWrite, ha]
  rfl

/-- Settles O8: the write and the reads by the register map, the rest by the agent whose step it is. -/
theorem converterFollowsConvIn : Obligations.ConverterFollowsConvIn := by
  unfold Obligations.ConverterFollowsConvIn
  refine ⟨fun s v => ?_, fun s t h hne => ?_⟩
  · exact ⟨hostWriteStep_convIn v s, (memRead_regOffset .convIn _).trans (colorWord_wordColor v),
      memRead_regOffset .convR _, memRead_regOffset .convG _, memRead_regOffset .convB _⟩
  · cases step_effect h with
    | reset he => exact .inl he
    | other _ _ _ hk => exact absurd hk.convIn hne
    | host a he _ m =>
      rcases hostMove_convIn m with hkeep | ⟨rd, v, ha⟩
      · exact absurd hkeep hne
      · exact .inr ⟨rd, v, by rw [he, ha]⟩

/-! ### What the invariants show -/

/-- The channels of a resolved configuration are pairwise distinct (R113). -/
theorem channelsDistinct_iff (c : BitVec 12) :
    channelsDistinct c = true ↔
      c.extractLsb' 0 4 ≠ c.extractLsb' 4 4 ∧ c.extractLsb' 0 4 ≠ c.extractLsb' 8 4 ∧
      c.extractLsb' 4 4 ≠ c.extractLsb' 8 4 := by
  simp [channelsDistinct, channelOf, and_assoc]

theorem resolve_of_ready_or_running {s : State} (h : PabInv s)
    (hs : s.status.state = .ready ∨ s.status.state = .running) : resolve s.cfg = (.none, s.status.mode) := by
  refine h.mode.resolved ?_
  rw [h.mode.modeValid_eq]
  rcases hs with hs | hs <;> rw [hs] <;> rfl

/-- Settles O53: the invariants of R50, read off `PabInv` and the status word, and the configuration of a run. -/
theorem invariantsOfR50 : Obligations.InvariantsOfR50 := by
  unfold Obligations.InvariantsOfR50
  refine ⟨fun s h => ?_, fun s t h hs ht => ?_⟩
  · obtain ⟨-, -, -, -, -, h15, h16⟩ := statusWord_bits s
    rw [show memRead 0x004 s = statusWord s from memRead_regOffset .status s, h15, h16]
    exact ⟨fun hs => (channelsDistinct_iff _).mp (resolve_ok (resolve_of_ready_or_running h hs)).1,
      by have := s.port.wrOff.isLt; omega, h.phase.wrOn_zero, h.phase.idle_iff, h.phase.wrReq_iff.mp,
      h.phase.dlyActive_iff.mp⟩
  · have hkeep : t.cfg = s.cfg ∧ t.mem = s.mem ∧ t.resets = s.resets := by
      cases step_effect h with
      | reset => cases ht
      | host _ _ _ m => exact hostMove_running_keeps (s := popped s) m hs
      | other _ _ _ hk => exact ⟨hk.cfg, hk.mem, hk.resets⟩
    obtain ⟨hcfg, hmem, hresets⟩ := hkeep
    exact ⟨hcfg, hmem, readByte_congr hmem hresets⟩

/-! ### The sticky bits -/

/-- The access writes this word to `CMD`. -/
def WritesCmd (a : HostAccess) (w : Word) : Prop := ∃ rd : Bool, a = ⟨true, rd, 0x000, w, .word⟩

/-- The access writes a configuration register or window entry. -/
def WritesConfig (a : HostAccess) : Prop :=
  ∃ (rd : Bool) (r : Reg) (v : Word), regAccess r = .cfg ∧ a = ⟨true, rd, regOffset r, v, .word⟩

/-- What a step with this access leaves in the sticky bits (R25, R26, R204, R205). -/
structure StickyAfter (a : HostAccess) (s t : State) : Prop where
  cmdErr : t.status.cmdErr = true ↔
    (∃ w, WritesCmd a w ∧ cmdRejected w s.status.state) ∨ (s.status.cmdErr = true ∧ ¬ WritesCmd a 4)
  wrIgnored : t.status.wrIgnored = true ↔
    (s.status.state = .running ∧ WritesConfig a) ∨ (s.status.wrIgnored = true ∧ ¬ WritesCmd a 4)

/-- A command sets `CMD_ERR` where it is rejected, and `CLRERR` alone clears the sticky bits (R110, R123). -/
theorem cmdMove_sticky {w : Word} {s t : State} (m : CmdMove w s t) :
    (t.status.cmdErr = true ↔ cmdRejected w s.status.state ∨ (s.status.cmdErr = true ∧ w ≠ 4)) ∧
    (t.status.wrIgnored = true ↔ s.status.wrIgnored = true ∧ w ≠ 4) := by
  cases m with
  | noEffect hw => rcases hw with rfl | rfl <;> simp [cmdRejected]
  | configured hw hs =>
    subst hw
    rcases configured_cases s with ⟨m, -, hc⟩ | ⟨-, hc⟩ <;> rw [hc] <;>
      simp [configReady, configFailed, cmdRejected, hs]
  | started hw hp =>
    subst hw
    have hnot : ¬ cmdRejected 2#32 s.status.state := by
      rintro (h | ⟨h, -⟩ | ⟨-, h⟩)
      · exact absurd h (by decide)
      · exact absurd h (by decide)
      · exact h ((startPermitted_iff _).mp hp)
    simp [hnot]
  | stopRequested hw => subst hw; simp [cmdRejected]
  | flagsCleared hw => subst hw; simp [cmdRejected]
  | rejected hr =>
    have hne : w ≠ 4#32 := by rintro rfl; simp [cmdRejected] at hr
    simp [hr, hne]

/-- An access at another register's offset is no write of `CMD`. -/
theorem not_writesCmd {rd : Bool} {r : Reg} {v w : Word} (hr : r ≠ .cmd) :
    ¬ WritesCmd ⟨true, rd, regOffset r, v, .word⟩ w := by
  rintro ⟨_, h⟩
  exact hr (regOffset_inj (r' := .cmd) (congrArg HostAccess.addr h))

/-- A write is one of a configuration register where its offset is one. -/
theorem writesConfig_iff {rd : Bool} {r : Reg} {v : Word} :
    WritesConfig ⟨true, rd, regOffset r, v, .word⟩ ↔ regAccess r = .cfg := by
  refine ⟨fun ⟨_, r', _, hr, h⟩ => ?_, fun hr => ⟨rd, r, v, hr, rfl⟩⟩
  rwa [regOffset_inj (congrArg HostAccess.addr h)]

/-- An access that is no command and no configuration write in a run keeps the sticky bits. -/
theorem stickyAfter_of_keeps {a : HostAccess} {s t : State} (hcmd : ∀ w, ¬ WritesCmd a w)
    (hcfg : ¬ (s.status.state = .running ∧ WritesConfig a)) (hc : t.status.cmdErr = s.status.cmdErr)
    (hw : t.status.wrIgnored = s.status.wrIgnored) : StickyAfter a s t where
  cmdErr := by simp [hcmd, hc]
  wrIgnored := by simp [hcmd, hcfg, hw]

theorem hostMove_sticky {a : HostAccess} {s t : State} (m : HostMove a s t) : StickyAfter a s t := by
  cases m with
  | command rd w ha _ m =>
    obtain ⟨hcmd, hwr⟩ := cmdMove_sticky m
    have hw (w' : Word) : WritesCmd a w' ↔ w = w' := by simp [WritesCmd, ha]
    have hc : ¬ WritesConfig a := by
      rw [ha, show (0x000 : BitVec 12) = regOffset .cmd from rfl, writesConfig_iff]
      simp [regAccess]
    exact ⟨by simpa [hw] using hcmd, by simpa [hw, hc] using hwr⟩
  | ignored rd r v ha hr hs =>
    have hne : r ≠ .cmd := by rintro rfl; cases hr
    subst ha
    exact ⟨by simp [not_writesCmd hne], by simp [writesConfig_iff, hr, hs]⟩
  | stored rd r v ha hr hs =>
    have hne : r ≠ .cmd := by rintro rfl; cases hr
    obtain ⟨-, -, hst⟩ := storeReg_keeps r v (strobed rd s)
    subst ha
    exact stickyAfter_of_keeps (fun _ => not_writesCmd hne) (fun h => hs h.1) (by simp [invalidate, hst])
      (by simp [invalidate, hst])
  | convIn rd v ha =>
    have ha : a = ⟨true, rd, regOffset .convIn, v, .word⟩ := ha
    subst ha
    exact stickyAfter_of_keeps (fun _ => not_writesCmd (by simp)) (by simp [writesConfig_iff, regAccess]) (by simp)
      (by simp)
  | answered hro x =>
    refine stickyAfter_of_keeps ?_ ?_ rfl rfl
    · rintro w ⟨rd, rfl⟩
      exact absurd (hro rfl .cmd rfl) (by simp [regAccess])
    · rintro ⟨-, rd, r, v, hr, rfl⟩
      exact absurd ((hro rfl r rfl).symm.trans hr) (by simp)

/-- Settles O46, by the agent whose step it is. -/
theorem stickyBits : Obligations.StickyBits := by
  unfold Obligations.StickyBits
  intro s t h
  cases step_effect h with
  | reset he => simp [he, resetStep, State.reset]
  | other hr hh _ hk => simp [hr, hh, hk.cmdErr, hk.wrIgnored, popped]
  | host a he _ m =>
    obtain ⟨hcmd, hwr⟩ := hostMove_sticky m
    simp only [he, Event.host.injEq, reduceCtorEq, false_or]
    refine ⟨hcmd.trans (or_congr_left ?_), hwr⟩
    exact ⟨fun ⟨w, ⟨rd, ha⟩, hr⟩ => ⟨rd, w, ha, hr⟩, fun ⟨rd, w, ha, hr⟩ => ⟨w, ⟨rd, ha⟩, hr⟩⟩

end Sys2Proof.Proofs
end

section
/-! PROOFS. A Regular run from `START` to `DONE`: one blink, then as many blinks as `FRAME_COUNT` asks for, by induction
(R38, R144, R146; logs 1, 12, 18; O44). -/

namespace Sys2Proof.Proofs

open Sys2Proof.Machine Sys2Proof.Safety Sys2Proof.Laws

/-! ### The ticks of a run of blinks -/

theorem count_tick_performEvents_blink (c : Color) (t : Word) :
    (performEvents (blink c t)).count .tick = 2 * t.toNat := by
  simp [performEvents, blink, actionEvents]
  omega

theorem count_tick_framesEvents_blink (c : Color) (t : Word) (n : Nat) :
    (framesEvents (blink c t) n).count .tick = 2 * t.toNat * n := by
  induction n with
  | zero => rfl
  | succ n ih =>
    rw [framesEvents, List.cons_append, List.count_cons_of_ne (by simp), List.count_append,
      List.count_cons_of_ne (by simp), ih, count_tick_performEvents_blink]
    ring

/-! ### One blink -/

/-- A Regular run at the begin of a frame, with no request outstanding. -/
structure AtBlink (s : State) : Prop where
  running : s.status.state = .running
  mode : s.status.mode = 7
  phase : s.eng.phase = .begin
  stop : s.eng.stop = false
  wrReq : s.port.wrReq = false
  ready : s.drv.ready = true

/-- The blink of the present configuration (R144). -/
def blinkOf (s : State) : List Action := blink s.cfg.rgb s.cfg.interval

/-- What `n` blinks leave of a run, its position and `FC` apart. -/
structure Blinked (n : Nat) (rest : List Event) (s t : State) : Prop where
  tape : t.tape = rest
  trace : t.trace = s.trace ++ (List.replicate n ((blinkOf s).map (actionTrace s.cfg.channels))).flatten
  curColor : t.curColor = black
  cfg : t.cfg = s.cfg
  mem : t.mem = s.mem

/-- The blink has been built (R131, R144). -/
def blinkBuilt (s : State) : State := frameBuilt (blinkOf s) s.eng.src s.eng.tgt (noDraws s)

/-- The begin of a Regular frame builds the blink (R131, R144). -/
theorem engineStep_blink {s : State} (hs : AtBlink s) : engineStep s = .next (blinkBuilt s) := by
  have hm : decodeMode s.status.mode = .mRegular := by rw [hs.mode]; rfl
  rw [engineStep_of_frame hs.running (.inl hs.phase), hm]
  exact exec_begin_noDraws (r := ⟨blinkOf s, s.eng.src, s.eng.tgt⟩) rfl hs.phase hs.stop rfl rfl

/-- The end of a Regular frame commits nothing (R135, R144). -/
theorem engineStep_blinkEnd {s : State} (hr : s.status.state = .running) (hm : s.status.mode = 7)
    (hp : s.eng.phase = .finish) : engineStep s = .next (closeFrame s) := by
  have hm : decodeMode s.status.mode = .mRegular := by rw [hm]; rfl
  rw [engineStep_of_frame hr (.inr hp), hm]
  exact exec_finish (i := .mRegular) rfl hp rfl

/-- What performing the list in `ACT` leaves at END. -/
structure ListDone (rest : List Event) (s t : State) : Prop where
  tape : t.tape = rest
  trace : t.trace = s.trace ++ s.eng.act.map (actionTrace s.cfg.channels)
  curColor : t.curColor = colorAfter s.eng.act s.curColor
  status : t.status = s.status
  cfg : t.cfg = s.cfg
  mem : t.mem = s.mem
  fc : t.eng.fc = s.eng.fc
  stop : t.eng.stop = s.eng.stop
  wrReq : t.port.wrReq = false
  ready : t.drv.ready = true

/-- A Regular frame from its first action to its end. -/
theorem runSteps_listDone {rest : List Event} {s : State} (hs : AtIssue s) (hm : s.status.mode = 7) (hp : s.eng.p = 0)
    (ht : s.tape = performEvents s.eng.act ++ .engine :: rest) :
    ∃ t, runSteps ((performEvents s.eng.act).length + 1) s = .next (closeFrame t) ∧ ListDone rest s t := by
  obtain ⟨u, h, hperf⟩ := runSteps_performEvents hs hp ht
  obtain ⟨_, _, _, heng⟩ := h.eng
  have hend := engineStep_blinkEnd (s := { u with tape := rest, eng := { u.eng with phase := .finish } })
    (by simp [h.status, hs.running]) (by simp [h.status, hm]) rfl
  refine ⟨{ u with tape := rest, eng := { u.eng with phase := .finish } }, ?_, rfl, h.trace, h.curColor, h.status,
    h.cfg, h.mem, by simp [heng], by simp [heng], h.wrReq, h.ready.trans hs.ready⟩
  rw [runSteps_add _ 1 hperf]
  exact runSteps_of_tape_cons rfl hend

/-- The first blink of a run, from the begin of its frame to the end. -/
theorem runSteps_blink {n : Nat} {rest : List Event} {s : State} (hs : AtBlink s)
    (ht : s.tape = framesEvents (blinkOf s) (n + 1) ++ rest) :
    ∃ t, runSteps (framesEvents (blinkOf s) (n + 1)).length s =
        runSteps (framesEvents (blinkOf s) n).length (closeFrame t) ∧
      Blinked 1 (framesEvents (blinkOf s) n ++ rest) s t ∧ t.status = s.status ∧ t.eng.fc = s.eng.fc ∧
      t.eng.stop = false ∧ t.port.wrReq = false ∧ t.drv.ready = true := by
  have ht' : s.tape = .engine :: (performEvents (blinkOf s) ++ .engine :: (framesEvents (blinkOf s) n ++ rest)) := by
    simp [ht, framesEvents]
  have hlen : (framesEvents (blinkOf s) (n + 1)).length =
      (performEvents (blinkOf s)).length + 1 + 1 + (framesEvents (blinkOf s) n).length := by
    simp only [framesEvents, List.length_append, List.length_cons]; omega
  obtain ⟨rest', hrest⟩ : ∃ r, r = framesEvents (blinkOf s) n ++ rest := ⟨_, rfl⟩
  rw [← hrest] at ht' ⊢
  have hbegin := engineStep_blink (s := { s with tape := performEvents (blinkOf s) ++ .engine :: rest' }) { hs with }
  obtain ⟨t, hrun, h⟩ := runSteps_listDone (rest := rest')
    (s := blinkBuilt { s with tape := performEvents (blinkOf s) ++ .engine :: rest' })
    ⟨hs.running, rfl, hs.wrReq, hs.ready⟩ hs.mode rfl rfl
  have htrace : t.trace = s.trace ++ (List.replicate 1 ((blinkOf s).map (actionTrace s.cfg.channels))).flatten :=
    h.trace.trans (congrArg (s.trace ++ ·) (List.append_nil _).symm)
  refine ⟨t, ?_, ⟨h.tape, htrace, h.curColor, h.cfg, h.mem⟩, h.status, h.fc, h.stop.trans hs.stop, h.wrReq, h.ready⟩
  rw [hlen]
  exact runSteps_add _ _ ((runSteps_of_tape_cons ht' hbegin).trans hrun)

/-! ### The blinks of a run -/

theorem blinkOf_congr {s t : State} (h : t.cfg = s.cfg) : blinkOf t = blinkOf s := by simp only [blinkOf, h]

theorem Blinked.append {m n : Nat} {rest rest' : List Event} {s t u : State} (h : Blinked m rest s t)
    (h' : Blinked n rest' t u) : Blinked (m + n) rest' s u where
  tape := h'.tape
  trace := by
    rw [h'.trace, h.trace, blinkOf_congr h.cfg, h.cfg, List.append_assoc, ← List.flatten_append,
      List.replicate_append_replicate]
  curColor := h'.curColor
  cfg := h'.cfg.trans h.cfg
  mem := h'.mem.trans h.mem

/-- The end of a frame with `FC` not 0 leaves the run at the begin of the next one (R38, R135). -/
theorem closeFrame_of_ne_zero {s : State} (h : s.eng.fc ≠ 0) :
    closeFrame s = { s with eng := { s.eng with first := false, fc := s.eng.fc - 1, phase := .begin, p := 0 } } :=
  if_neg h

/-- A run with `FC` frames to go after this one performs that many blinks and one more, and is `DONE` (R38, R135). -/
theorem runSteps_blinks {n : Nat} {rest : List Event} {s : State} (hs : AtBlink s) (hfc : s.eng.fc.toNat = n)
    (ht : s.tape = framesEvents (blinkOf s) (n + 1) ++ rest) :
    ∃ t, runSteps (framesEvents (blinkOf s) (n + 1)).length s = .next t ∧ Blinked (n + 1) rest s t ∧
      t.status = { s.status with state := .done } ∧ t.eng.fc = 0 ∧ t.eng.phase = .idle := by
  induction n generalizing s with
  | zero =>
    obtain ⟨t, hrun, hb, hst, hfc', -⟩ := runSteps_blink hs ht
    have h0 : t.eng.fc = 0 := hfc'.trans (BitVec.eq_of_toNat_eq hfc)
    rw [hrun, closeFrame, if_pos h0]
    exact ⟨_, rfl, { hb with }, by simp [hst], h0, rfl⟩
  | succ n ih =>
    obtain ⟨t, hrun, hb, hst, hfc', hstop, hwr, hready⟩ := runSteps_blink hs ht
    have hn : t.eng.fc.toNat = n + 1 := by rw [hfc', hfc]
    have hne : t.eng.fc ≠ 0 := fun h0 => by rw [h0] at hn; cases hn
    have hdec : (t.eng.fc - 1).toNat = n := by bv_omega
    have hnext : AtBlink (closeFrame t) := by
      rw [closeFrame_of_ne_zero hne]
      exact ⟨by simp [hst, hs.running], by simp [hst, hs.mode], rfl, hstop, hwr, hready⟩
    have hb' : Blinked 1 (framesEvents (blinkOf s) (n + 1) ++ rest) s (closeFrame t) := by
      rw [closeFrame_of_ne_zero hne]
      exact { hb with }
    obtain ⟨u, hrun', hbs, hst', hrest⟩ := ih hnext (by rw [closeFrame_of_ne_zero hne]; exact hdec)
      (by rw [blinkOf_congr hb'.cfg]; exact hb'.tape)
    rw [blinkOf_congr hb'.cfg] at hrun'
    refine ⟨u, hrun.trans hrun', ?_, ?_, hrest⟩
    · rw [Nat.add_comm (n + 1) 1]
      exact hb'.append hbs
    · rw [hst', closeFrame_of_ne_zero hne, hst]

/-! ### The run -/

/-- A permitted `START` with the DRIVER set up begins a run (R121). -/
theorem hostWriteStep_start {s : State} (hp : startPermitted s.status.state = true) (hd : s.drv.ready = true) :
    hostWriteStep 0x000 2 s = .next (startRun s) := by
  rw [hostWriteStep_eq, hostWrite_cmd (i := .start) (by decide), if_neg (by simp [setupOwed, hd])]
  exact if_pos hp

/-- Settles O44: `START`, then the blinks by induction on `FRAME_COUNT`. -/
theorem regularRunIsItsBlinks : Obligations.RegularRunIsItsBlinks := by
  unfold Obligations.RegularRunIsItsBlinks
  intro s rest n acts hst hm hwr _ hd ht
  refine ⟨count_tick_framesEvents_blink _ _ _, ?_⟩
  have hstart := hostWriteStep_start (s := { s with tape := framesEvents acts n ++ rest }) (by rw [hst]; rfl) hd
  obtain ⟨t, hrun, hb, hstatus, hfc, hphase⟩ := runSteps_blinks (n := s.cfg.frameCount.toNat) (rest := rest)
    (s := startRun { s with tape := framesEvents acts n ++ rest }) ⟨rfl, hm, rfl, rfl, hwr, hd⟩ rfl rfl
  refine ⟨t, ?_, hstatus, hfc, hphase, hb.trace, hb.curColor, hb.cfg, hb.mem, hb.tape⟩
  rw [Nat.add_comm]
  exact (runSteps_of_tape_cons ht hstart).trans hrun

end Sys2Proof.Proofs
end

section
/-! PROOFS. Host writes by the register they name (R60 to R69): nothing is taken where no register stands or a read-only
one does, and a configuration write is taken outside a run and ignored in one (O11 to O14). -/

namespace Sys2Proof.Proofs

open Sys2Proof.Machine Sys2Proof.Safety Sys2Proof.Laws

/-! ### Addresses where nothing is taken -/

/-- The entries of the two memories stand where their bytes do (R44; log 4). -/
theorem regOffset_ram_toNat (n : BitVec 6) :
    (regOffset (.seqRam n)).toNat = seqAddr n ∧ (regOffset (.intRam n)).toNat = intAddr n := by
  revert n
  decide

/-- Every register stands below 0x04C or within the two windows (R20, R61). -/
theorem regOffset_range (r : Reg) : (regOffset r).toNat < 0x04C ∨
    (0x100 ≤ (regOffset r).toNat ∧ (regOffset r).toNat < 0x300) := by
  cases r
  case seqRam n =>
    have := n.isLt
    rw [(regOffset_ram_toNat n).1, seqAddr]
    omega
  case intRam n =>
    have := n.isLt
    rw [(regOffset_ram_toNat n).2, intAddr]
    omega
  all_goals decide

/-- No register stands at a misaligned address (R65) or a reserved offset (R62). -/
theorem regAt_eq_none {a : BitVec 12}
    (h : a.extractLsb' 0 2 ≠ 0 ∨ (a.extractLsb' 0 2 = 0 ∧ (0x04C ≤ a.toNat ∧ a.toNat < 0x100 ∨ 0x300 ≤ a.toNat))) :
    regAt a = none := by
  rcases h with hmis | ⟨-, hres⟩
  · exact if_pos hmis
  · cases hr : regAt a with
    | none => rfl
    | some r =>
      have := regOffset_range r
      rw [← regOffset_of_regAt hr] at this
      omega

theorem hostWrite_of_ne_cmd {a : BitVec 12} (h : regAt a ≠ some .cmd) (v : Word) (s : State) :
    hostWrite a v s = .next (memWrite a v s) := if_neg h

/-- A write where no register stands changes nothing (R62, R65). -/
theorem hostWrite_of_none {a : BitVec 12} (h : regAt a = none) (v : Word) (s : State) : hostWrite a v s = .next s := by
  rw [hostWrite_of_ne_cmd (by simp [h]), memWrite, h]

/-- A write of a read-only register changes nothing (R68). -/
theorem hostWrite_readOnly {r : Reg} (h : regAccess r = .ro) (v : Word) (s : State) :
    hostWrite (regOffset r) v s = .next s := by
  have hne : r ≠ .cmd := by rintro rfl; cases h
  rw [hostWrite_of_ne_cmd (by simpa [regAt_regOffset] using hne), memWrite, regAt_regOffset]
  simp [h]

/-- A host read answers what its address reads (R63). -/
theorem hostReadStep_of_memRead {a : BitVec 12} {s : State} {w : Word} (h : memRead a s = w) :
    hostReadStep a s = .next (setRdata w s) := by
  rw [hostReadStep_eq, hostRead_eq, h]

/-- Settles O11: no register stands at those addresses, the nine registers are read-only, and `CMD` reads 0. -/
theorem misalignedReservedAndReadOnly : Obligations.MisalignedReservedAndReadOnly := by
  unfold Obligations.MisalignedReservedAndReadOnly
  refine ⟨fun s a v ha => ?_, fun s v a ha => ?_, fun s => ?_⟩
  · have hnone := regAt_eq_none ha
    exact ⟨hostWrite_of_none hnone v s, hostReadStep_of_memRead (by rw [memRead, hnone])⟩
  · have hro : ∃ r, regAccess r = .ro ∧ regOffset r = a := by
      simp only [List.mem_cons, List.not_mem_nil, or_false] at ha
      rcases ha with rfl | rfl | rfl | rfl | rfl | rfl | rfl | rfl | rfl
      exacts [⟨.status, rfl, rfl⟩, ⟨.frameRemain, rfl, rfl⟩, ⟨.seqIndex, rfl, rfl⟩, ⟨.intIndex, rfl, rfl⟩,
        ⟨.curColor, rfl, rfl⟩, ⟨.convR, rfl, rfl⟩, ⟨.convG, rfl, rfl⟩, ⟨.convB, rfl, rfl⟩, ⟨.caps, rfl, rfl⟩]
    obtain ⟨r, hr, rfl⟩ := hro
    exact hostWrite_readOnly hr v s
  · exact hostReadStep_of_memRead (memRead_regOffset .cmd s)

/-! ### Configuration writes -/

/-- A stored register changes no byte outside its entry's own four (R44; log 4). -/
theorem readByte_storeReg {r : Reg} {b : Nat} (h : ¬ storedByte r b) (v : Word) (s : State) :
    readByte (storeReg r v s) b = readByte s b := by
  cases r
  case seqRam n =>
    simp only [storedByte, not_and_or, not_le, not_lt] at h
    simp only [readByte, storeReg]
    rw [cellLookup_cellSetWord_other _ _ _ _ (by simp only [seqAddr]; omega)]
  case intRam n =>
    simp only [storedByte, not_and_or, not_le, not_lt] at h
    simp only [readByte, storeReg]
    rw [cellLookup_cellSetWord_other _ _ _ _ (by simp only [intAddr]; omega)]
  all_goals rfl

/-- Two entries share no byte (R61). -/
theorem not_storedByte_of_ne {r r' : Reg} (h : r' ≠ r) {b : Nat} (hb : storedByte r' b) : ¬ storedByte r b := by
  have toNat_ne {m n : BitVec 6} (hmn : m ≠ n) : m.toNat ≠ n.toNat := fun he => hmn (BitVec.eq_of_toNat_eq he)
  intro hb'
  cases r <;> cases r' <;> simp only [storedByte] at hb hb'
  case seqRam.seqRam n m =>
    have := toNat_ne (fun he => h (congrArg Reg.seqRam he))
    omega
  case intRam.intRam n m =>
    have := toNat_ne (fun he => h (congrArg Reg.intRam he))
    omega
  all_goals omega

/-- A taken configuration write leaves every other register but `STATUS` as it was (R64). -/
theorem readReg_stored_other {r r' : Reg} (hr : regAccess r = .cfg) (hne : r' ≠ r) (hst : r' ≠ .status) (v : Word)
    (s : State) : readReg r' (invalidate (storeReg r v s)) = readReg r' s := by
  have hbyte (b : Nat) (hb : storedByte r' b) : readByte (invalidate (storeReg r v s)) b = readByte s b :=
    readByte_storeReg (not_storedByte_of_ne hne hb) v s
  cases r'
  case seqRam n =>
    simp only [storedByte] at hbyte
    rw [(readReg_ram _ n).1, (readReg_ram s n).1, hbyte _ (by omega), hbyte _ (by omega), hbyte _ (by omega)]
  case intRam n =>
    simp only [storedByte] at hbyte
    rw [(readReg_ram _ n).2, (readReg_ram s n).2, hbyte _ (by omega), hbyte _ (by omega), hbyte _ (by omega),
      hbyte _ (by omega)]
  case status => exact absurd rfl hst
  all_goals cases r <;> simp [regAccess, storeReg, readReg] at hr hne ⊢

/-- What a stored configuration register leaves as it was. -/
theorem storeReg_cfg_keeps {r : Reg} (h : regAccess r = .cfg) (v : Word) (s : State) :
    (storeReg r v s).curColor = s.curColor ∧ (storeReg r v s).convIn = s.convIn ∧
    (storeReg r v s).trace = s.trace ∧ (storeReg r v s).tape = s.tape ∧ (storeReg r v s).resets = s.resets ∧
    (storeReg r v s).drv = s.drv := by
  refine ⟨?_, storeReg_convIn h v s, ?_⟩ <;> cases r <;> simp [storeReg]

/-- Settles O12: the write invalidates after the store, whose frame is that of the register it names. -/
theorem configurationWriteIsTakenAndInvalidates : Obligations.ConfigurationWriteIsTakenAndInvalidates := by
  unfold Obligations.ConfigurationWriteIsTakenAndInvalidates
  refine ⟨fun s r v hr hs => ?_, rfl, rfl, rfl, rfl, rfl, rfl, rfl, rfl, fun _ => rfl, fun _ => rfl⟩
  obtain ⟨heng, hport, hstatus⟩ := storeReg_keeps r v s
  obtain ⟨hcur, hconv, htrace, htape, hresets, hdrv⟩ := storeReg_cfg_keeps hr v s
  exact ⟨invalidate (storeReg r v s), by rw [hostWriteStep_cfg hr, if_neg hs], readReg_storeReg_self hr,
    fun _ hne hst => readReg_stored_other hr hne hst v s, by rw [invalidate, hstatus], heng, hport, hcur, hconv,
    htrace, htape, hresets, hdrv, fun _ hb => readByte_storeReg hb v s⟩

/-- Settles O13: in a run the write is the ignored-write event (R205). -/
theorem configurationWriteWhileRunningIsIgnored : Obligations.ConfigurationWriteWhileRunningIsIgnored := by
  unfold Obligations.ConfigurationWriteWhileRunningIsIgnored
  intro s r v hr hs
  rw [hostWriteStep_cfg hr, if_pos hs]
  rfl

/-! ### Strobes -/

/-- Settles O14, by the strobes and the width of the access. -/
theorem strobesAndAccessWidth : Obligations.StrobesAndAccessWidth := by
  unfold Obligations.StrobesAndAccessWidth
  refine ⟨fun s a v => rfl, fun s x hsize hstrobe => ?_, fun s x hwr hrd => ?_⟩
  · have hor : (x.wr || x.rd) = true := by simpa using hstrobe
    exact (if_pos hor).trans (if_neg hsize)
  · exact if_neg (by simp [hwr, hrd])

end Sys2Proof.Proofs
end

section
/-! PROOFS. The DRIVER's side of the output port (R71, R172, R176 to R180, R216): what an answered channel write leaves in
the chip, and which frequencies `setFrequency` takes and what it programs (O55, O57). -/

namespace Sys2Proof.Proofs

open Sys2Proof.Machine Sys2Proof.Safety Sys2Proof.Laws

/-! ### A channel write -/

/-- Everything an `ok` answer changes in the DRIVER: the four registers and the pair of its channel (R172, R176, R177). -/
theorem chipAnswered_ok_spec (s : State) :
    (∃ l, (chipAnswered false s).drv =
      { s.drv with
        leds := l, pairs := s.drv.pairs.set s.port.wrCh.toNat (s.port.wrOn, s.port.wrOff) s.port.wrCh.isLt }) ∧
    ∀ ch k, ledByte (chipAnswered false s).drv ch k =
      if ch = s.port.wrCh then countByte s.port.wrOn s.port.wrOff k else ledByte s.drv ch k := by
  refine ⟨?_, fun ch k => ledByte_chWriteOps s.drv s.port.wrCh ch s.port.wrOn s.port.wrOff k⟩
  obtain ⟨l, hl⟩ := runBusOps_groupWrites (countByte s.port.wrOn s.port.wrOff) 4 s.drv s.port.wrCh
  exact ⟨l, congrArg (recordPair s.port.wrCh s.port.wrOn s.port.wrOff) hl⟩

/-- Settles O55: the answer step is the four register writes and the record of the pair. -/
theorem channelWriteBytes : Obligations.ChannelWriteBytes := by
  unfold Obligations.ChannelWriteBytes
  refine ⟨fun ch on off => rfl, fun s hd hp hr => ⟨_, driverStep_answered hp hr hd, ?_⟩⟩
  obtain ⟨⟨l, hdrv⟩, hled⟩ := chipAnswered_ok_spec s
  have hkeep : (respond false (chipAnswered false s)).drv = (chipAnswered false s).drv := by simp
  have hown (k : BitVec 2) :
      ledByte (chipAnswered false s).drv s.port.wrCh k = countByte s.port.wrOn s.port.wrOff k := by
    rw [hled, if_pos rfl]
  rw [hkeep]
  refine ⟨hown 0, hown 1, hown 2, hown 3, fun ch k hne => by rw [hled, if_neg hne], ?_⟩
  rw [hdrv]
  refine ⟨rfl, rfl, rfl, rfl, fun ch => ?_⟩
  simp [Vector.getElem_set, eq_comm]

/-! ### The prescale -/

/-- `round(P_OSC_HZ / (4096 · hz))`, the chip's divisor, of which the prescale register takes one less (R179). -/
def divisor (hz : Nat) : Nat := (2 * Config.pOscHz + 4096 * hz) / (2 * (4096 * hz))

/-- The divisor is the integer within one half of the ratio, and no tie arises, since 4096 does not divide
`2 · P_OSC_HZ` (R179). -/
theorem divisor_bounds {hz : Nat} (h : 0 < hz) :
    2 * (divisor hz * (4096 * hz)) < 2 * 25000000 + 4096 * hz ∧
      2 * 25000000 < 2 * (divisor hz * (4096 * hz)) + 4096 * hz := by
  have hlo := Nat.div_mul_le_self (2 * Config.pOscHz + 4096 * hz) (2 * (4096 * hz))
  have hhi := Nat.lt_div_mul_add (a := 2 * Config.pOscHz + 4096 * hz) (b := 2 * (4096 * hz)) (by omega)
  have hprod : divisor hz * (2 * (4096 * hz)) = 4096 * (2 * (divisor hz * hz)) := by ring
  have hprod' : divisor hz * (4096 * hz) = 4096 * (divisor hz * hz) := by ring
  change divisor hz * _ ≤ _ at hlo
  change _ < divisor hz * _ + _ at hhi
  rw [hprod] at hlo hhi
  rw [hprod']
  simp only [Config.pOscHz] at hlo hhi
  omega

/-- The divisor is 1 to 256, and its prescale 0 to 255, for 24 to 12207 Hz alone (U15). -/
theorem divisor_fits_iff (hz : Nat) : (hz ≠ 0 ∧ 1 ≤ divisor hz ∧ divisor hz ≤ 256) ↔ 24 ≤ hz ∧ hz ≤ 12207 := by
  rcases Nat.eq_zero_or_pos hz with rfl | hpos
  · simp
  · have hone : 1 ≤ divisor hz ↔ hz ≤ 12207 := by
      rw [divisor, Nat.le_div_iff_mul_le (by omega), Config.pOscHz]
      omega
    have hmax : divisor hz ≤ 256 ↔ 24 ≤ hz := by
      rw [← Nat.lt_succ_iff, divisor, Nat.div_lt_iff_lt_mul (by omega), Config.pOscHz]
      omega
    rw [hone, hmax]
    omega

theorem prescale_eq (hz : Nat) :
    prescale hz = if 24 ≤ hz ∧ hz ≤ 12207 then some (BitVec.ofNat 8 (divisor hz - 1)) else none := by
  have hfits := divisor_fits_iff hz
  change (if hz = 0 ∨ divisor hz = 0 ∨ 256 < divisor hz then none else _) = _
  split
  · rw [if_neg (by omega)]
  · rw [if_pos (by omega)]
    rfl

/-- A prescale that fits is one less than the divisor, which it came from without loss (R179). -/
theorem divisor_of_prescale {hz : Nat} {p : Byte} (h : prescale hz = some p) : 0 < hz ∧ divisor hz = p.toNat + 1 := by
  rw [prescale_eq] at h
  split at h
  · rename_i hr
    obtain ⟨hne, hone, hmax⟩ := (divisor_fits_iff hz).mpr hr
    obtain rfl := Option.some.inj h
    refine ⟨by omega, ?_⟩
    rw [BitVec.toNat_ofNat, Nat.mod_eq_of_lt (by omega)]
    omega
  · cases h

/-- `p + 1` is within one half of `P_OSC_HZ / (4096 · hz)` (R179). -/
theorem prescale_nearest {hz : Nat} {p : Byte} (h : prescale hz = some p) :
    0 < hz ∧ (2 * p.toNat + 1) * (4096 * hz) < 2 * 25000000 ∧ 2 * 25000000 < (2 * p.toNat + 3) * (4096 * hz) := by
  obtain ⟨hpos, hdiv⟩ := divisor_of_prescale h
  obtain ⟨hlo, hhi⟩ := divisor_bounds hpos
  rw [hdiv] at hlo hhi
  refine ⟨hpos, ?_, ?_⟩ <;> linarith

/-! ### `setFrequency` -/

/-- With the DRIVER set up and a prescale that fits, the chip runs on the new prescale and its channel registers are free
values again (R179, R216). -/
theorem setFrequencyStep_of_prescale {s : State} {hz : Nat} {p : Byte} (hd : s.drv.ready = true)
    (hp : prescale hz = some p) :
    setFrequencyStep hz s = .next { s with drv := { s.drv with
      preScale := p, mode1 := s.drv.mode1 ||| Config.mode1Restart, frequency := hz, leds := [],
      sleeps := s.drv.sleeps + 1 } } := by
  rw [setFrequencyStep, if_pos hd, hp]
  rfl

/-- Settles O57, from the divisor's bounds and the step's own refusals. -/
theorem setFrequencyProgramsThePrescale : Obligations.SetFrequencyProgramsThePrescale := by
  unfold Obligations.SetFrequencyProgramsThePrescale
  refine ⟨fun hz => ?_, fun s hz hd hr => ?_, fun s hz hd => ?_, fun old p => rfl, fun s hz p hd hp => ?_⟩
  · rw [prescale_eq]
    exact Option.isSome_ite
  · have hnone : prescale hz = none := by rw [prescale_eq, if_neg hr]
    change setFrequencyStep hz s = _
    rw [setFrequencyStep, if_pos hd, hnone]
  · exact if_neg (by simp [hd])
  · obtain ⟨hpos, hlo, hhi⟩ := prescale_nearest hp
    exact ⟨hpos, hlo, hhi, setFrequencyStep_of_prescale hd hp⟩

end Sys2Proof.Proofs
end

section
/-! PROOFS. The encoder and the decoder against each other, format by format (R80, R82 to R86, R103; O1 to O3), and the
output port's operation (R86, R170, R171; O34). -/

namespace Sys2Proof.Proofs

open Sys2Proof.Machine

/-! ### Fields and masks -/

/-- A field at bit 0 is the word under the mask of its width. -/
theorem setWidth_lowField (w : Word) (n : Nat) :
    (w.extractLsb' 0 n).setWidth 32 = w &&& (BitVec.allOnes n).setWidth 32 := by
  refine BitVec.eq_of_getLsbD_eq fun k hk => ?_
  simp [hk, Bool.and_comm]

/-- The three OUT fields of a word side by side are the word under OUT's mask (log 9). -/
theorem append_outFields (w : Word) :
    (0#4 ++ w.extractLsb' 24 4 ++ w.extractLsb' 12 12 ++ w.extractLsb' 0 12 : Word) = w &&& Format.out.mask := by
  calc (0#4 ++ w.extractLsb' 24 4 ++ w.extractLsb' 12 12 ++ w.extractLsb' 0 12 : Word)
      = 0#4 ++ (w.extractLsb' 24 4 ++ w.extractLsb' 12 12 ++ w.extractLsb' 0 12) := by
        rw [BitVec.append_assoc, BitVec.append_assoc, BitVec.append_assoc]; rfl
    _ = 0#4 ++ w.extractLsb' 0 28 := by
        rw [BitVec.extractLsb'_append_extractLsb'_eq_extractLsb' (show 24 = 12 + 12 by rfl),
          BitVec.extractLsb'_append_extractLsb'_eq_extractLsb' (show 12 = 0 + 12 by rfl)]
    _ = (w.extractLsb' 0 28).setWidth 32 := (BitVec.setWidth_eq_append (by decide)).symm
    _ = w &&& Format.out.mask := setWidth_lowField w 28

/-! ### OUT -/

/-- The OUT triples PAB issues are those with on count 0 and a duty for their off count (R86, R171). -/
theorem decodeOut_eq_ok_iff {ch : BitVec 4} {on off : BitVec 12} {i : Instr} :
    decodeOut ch on off = .ok i ↔ on = 0 ∧ isDuty off = true ∧ i = .chwrite ch off := by
  unfold decodeOut
  by_cases hon : on = 0
  · by_cases hoff : isDuty off = true
    · simp [hon, hoff, eq_comm]
    · simp [hon, hoff]
  · rw [if_pos hon]
    exact ⟨nofun, fun h => absurd h.1 hon⟩

/-- The decoder finds the channel, the on count 0 and the off count where the encoder puts them (log 9). -/
theorem decode_encode_chwrite (ch : BitVec 4) (off : BitVec 12) :
    decode (encode (.chwrite ch off)).1 (encode (.chwrite ch off)).2 = decodeOut ch 0 off := by
  have hch : (0#4 ++ ch ++ 0#12 ++ off : Word).extractLsb' 24 4 = ch := by
    rw [BitVec.extractLsb'_append_eq_of_le (by decide), BitVec.extractLsb'_append_eq_of_le (by decide)]
    exact BitVec.extractLsb'_append_eq_right
  have hon : (0#4 ++ ch ++ 0#12 ++ off : Word).extractLsb' 12 12 = 0 := by
    rw [BitVec.extractLsb'_append_eq_of_le (by decide)]
    exact BitVec.extractLsb'_append_eq_right
  have hoff : (0#4 ++ ch ++ 0#12 ++ off : Word).extractLsb' 0 12 = off := BitVec.extractLsb'_append_eq_right
  exact congr (congr (congrArg decodeOut hch) hon) hoff

/-! ### From a decoded field to its encoding -/

/-- A CMD word that decodes is one of the five command codes, whole (R82, R83, R88). -/
theorem encode_of_decode_cmd {w : Word} {i : Instr} (h : decode .cmd w = .ok i) :
    encode i = (.cmd, w) ∧ i.wellFormed = true := by
  rcases cmd_word_cases w with rfl | rfl | rfl | rfl | rfl | hw
  case inr.inr.inr.inr.inr =>
    obtain ⟨e, he⟩ := decode_cmd_illegal hw
    rw [he] at h
    cases h
  all_goals
    obtain rfl := Except.ok.inj h
    exact ⟨rfl, rfl⟩

/-- Every mode code is the encoding of its frame operation (R84). -/
theorem encode_decodeMode (m : BitVec 3) :
    encode (decodeMode m) = (.mode, m.setWidth 32) ∧ (decodeMode m).wellFormed = true := by
  revert m
  decide

/-- An address that decodes is that of its converter register (R103). -/
theorem encode_of_decodeDuty {a : BitVec 12} {i : Instr} (h : decodeDuty a = .ok i) :
    encode i = (.duty, a.setWidth 32) ∧ i.wellFormed = true := by
  unfold decodeDuty at h
  split at h
  case h_4 => cases h
  all_goals
    rename_i ha
    obtain rfl := Except.ok.inj h
    rw [← BitVec.ofNat_toNat, ha]
    exact ⟨rfl, rfl⟩

/-! ### The obligations -/

/-- Settles O2: a CHWRITE by its fields, and the operations without an operand by their table words. -/
theorem decodeOfEncode : Obligations.DecodeOfEncode := by
  unfold Obligations.DecodeOfEncode
  intro i hwf
  cases i with
  | chwrite ch off => rw [decode_encode_chwrite, decodeOut_eq_ok_iff]; exact ⟨rfl, hwf, rfl⟩
  | _ => rfl

/-- Settles O3, format by format. -/
theorem encodeOfDecode : Obligations.EncodeOfDecode := by
  unfold Obligations.EncodeOfDecode
  intro f w i h
  cases f with
  | cmd =>
    have hmask : w &&& Format.cmd.mask = w := BitVec.and_allOnes
    rw [hmask]
    exact encode_of_decode_cmd h
  | mode =>
    have hmask := setWidth_lowField w 3
    obtain rfl := Except.ok.inj h
    exact hmask ▸ encode_decodeMode (w.extractLsb' 0 3)
  | out =>
    obtain ⟨hon, hoff, rfl⟩ := decodeOut_eq_ok_iff.mp h
    rw [← append_outFields, hon]
    exact ⟨rfl, hoff⟩
  | duty =>
    have hmask := setWidth_lowField w 12
    exact hmask ▸ encode_of_decodeDuty h

/-- Settles O1, by reading each word. -/
theorem decodedWordsOfTheTables : Obligations.DecodedWordsOfTheTables := by
  unfold Obligations.DecodedWordsOfTheTables
  decide

/-- Settles O34: `CHWRITE` is the port's transaction, whose state is written out there. -/
theorem chwriteDrivesThePort : Obligations.ChwriteDrivesThePort := by
  unfold Obligations.ChwriteDrivesThePort
  exact fun ch off s => rfl

end Sys2Proof.Proofs
end

section
/-! PROOFS. The duty-cycle converter as integer arithmetic: the forms of `toDuty` and its laws over 0..255 (R100 to
R102; O5, O6). -/

namespace Sys2Proof.Proofs

open Sys2Proof.Machine

/-! ### The duty of a component -/

/-- R102 (a): the output clamp never binds. -/
theorem dutyNat_le (c : Nat) : dutyNat c ≤ 4095 := by
  unfold dutyNat
  omega

/-- The second form of R101: 4095 = 255 · 16 + 15 and 255 = 15 · 17, so the quotient by 255 is 16 for each unit and a
quotient by 17. -/
theorem dutyNat_eq_sixteen_mul_add (c : Nat) : dutyNat c = 16 * (255 - c) + (255 - c + 8) / 17 := by
  unfold dutyNat
  generalize 255 - c = k
  calc (4095 * k + 127) / 255
      = (15 * k + 127 + 255 * (16 * k)) / 255 := by congr 1; omega
    _ = (15 * k + 127) / (15 * 17) + 16 * k := Nat.add_mul_div_left _ _ (by decide)
    _ = (15 * k + 127) / 15 / 17 + 16 * k := by rw [Nat.div_div_eq_div_mul]
    _ = (k + 8) / 17 + 16 * k := by congr 2; omega
    _ = 16 * k + (k + 8) / 17 := Nat.add_comm _ _

/-- R101: the duty lies strictly within one half of `4095 k / 255`, with the fractions cleared. -/
theorem dutyNat_nearest (c : Nat) :
    2 * 255 * dutyNat c < 2 * (4095 * (255 - c)) + 255 ∧ 2 * (4095 * (255 - c)) < 2 * 255 * dutyNat c + 255 := by
  unfold dutyNat
  constructor <;> omega

/-- R102 (b): one unit of colour is 16 or 17 counts of duty. -/
theorem dutyNat_succ_step {c : Nat} (hc : c < 255) :
    dutyNat (c + 1) + 16 = dutyNat c ∨ dutyNat (c + 1) + 17 = dutyNat c := by
  have hk : 255 - c = 255 - (c + 1) + 1 := by omega
  rw [dutyNat_eq_sixteen_mul_add, dutyNat_eq_sixteen_mul_add, hk]
  omega

/-- R102 (b): a brighter component has the smaller duty. -/
theorem strictAntiOn_dutyNat : StrictAntiOn dutyNat (Set.Iic 255) := by
  refine strictAntiOn_of_add_one_lt Set.ordConnected_Iic fun c _ _ (hc : c + 1 ≤ 255) => ?_
  obtain h | h := dutyNat_succ_step hc <;> omega

/-! ### `toDuty` -/

/-- On any integer, `toDuty` is the duty of the clamped component. -/
theorem toNat_toDutyInt (c : Int) : (toDutyInt c).toNat = dutyNat (clampInt c 0 255).toNat := by
  have hle := dutyNat_le (clampInt c 0 255).toNat
  rw [toDutyInt, Nat.min_eq_left hle, BitVec.toNat_ofNat, Nat.mod_eq_of_lt (by omega)]

/-- A component already in 0..255 is not clamped. -/
theorem toNat_toDutyInt_natCast {c : Nat} (hc : c ≤ 255) : (toDutyInt c).toNat = dutyNat c := by
  have hclamp : (clampInt c 0 255).toNat = c := by
    unfold clampInt
    omega
  rw [toNat_toDutyInt, hclamp]

/-- R102 (d): `toDuty` is injective on 0..255. -/
theorem toDutyInt_natCast_inj {c c' : Nat} (hc : c ≤ 255) (hc' : c' ≤ 255) (h : toDutyInt c = toDutyInt c') :
    c = c' := by
  refine strictAntiOn_dutyNat.injOn hc hc' ?_
  rw [← toNat_toDutyInt_natCast hc, ← toNat_toDutyInt_natCast hc', h]

/-! ### The obligations -/

/-- Settles O5: the three facts about the duty, at the clamped component. -/
theorem toDutyIsTheExactRounding : Obligations.ToDutyIsTheExactRounding := by
  unfold Obligations.ToDutyIsTheExactRounding
  intro c k d
  have hk : k = 255 - (clampInt c 0 255).toNat := by
    simp only [k, clampInt]
    omega
  have hd : d = dutyNat (clampInt c 0 255).toNat := toNat_toDutyInt c
  rw [hd, hk]
  exact ⟨rfl, dutyNat_eq_sixteen_mul_add _, dutyNat_nearest _⟩

/-- Settles O6: each law is one of the duty of an unclamped component. -/
theorem toDutyLaws : Obligations.ToDutyLaws := by
  unfold Obligations.ToDutyLaws
  refine ⟨fun c _ => dutyNat_le c, fun c hc => ?_, by decide, by decide,
    fun c c' hc hc' => toDutyInt_natCast_inj hc hc'⟩
  rw [toNat_toDutyInt_natCast (c := c + 1) (by omega), toNat_toDutyInt_natCast (c := c) (by omega)]
  exact dutyNat_succ_step (by omega)

end Sys2Proof.Proofs
end

section
/-! PROOFS. The commands by their word, and mode resolution check by check (R110 to R124; O15 to O22). -/

namespace Sys2Proof.Proofs

open Sys2Proof.Machine Sys2Proof.Safety Sys2Proof.Laws

/-! ### Where a command is permitted and where it is rejected -/

theorem exec_configure_of_running {s : State} (hs : s.status.state = .running) :
    exec .configure s = .next (withCmdErr s) := if_pos hs

theorem exec_configure_of_not_running {s : State} (hs : s.status.state ≠ .running) :
    exec .configure s = .next (configured s) := if_neg hs

theorem exec_start_permitted {s : State} (hs : s.status.state ∈ [RunState.ready, .done, .cancelled, .busError]) :
    exec .start s = .next (startRun s) := if_pos ((startPermitted_iff _).mpr hs)

theorem exec_start_rejected {s : State} (hs : s.status.state ∉ [RunState.ready, .done, .cancelled, .busError]) :
    exec .start s = .next (withCmdErr s) := if_neg (mt (startPermitted_iff _).mp hs)

/-! ### CMD words -/

/-- The write of a CMD word that owes no `setup()` executes the command it decodes to (R64). -/
theorem hostWriteStep_of_decode {w : Word} {i : Instr} {s : State} (hb : ¬ runBeforeSetup w s)
    (hi : decode .cmd w = .ok i) : hostWriteStep 0x000 w s = exec i s := by
  rw [hostWriteStep_eq, hostWrite_cmd hi, if_neg (mt (setupOwed_iff hi).mp hb)]

/-- The write of an illegal CMD word is a CommandError (R88, R110). -/
theorem hostWriteStep_of_illegal {w : Word} (hw : 4 < w.toNat) (s : State) :
    hostWriteStep 0x000 w s = .next (withCmdErr s) := by
  obtain ⟨e, he⟩ := decode_cmd_illegal hw
  have ha : regAt 0x000 = some .cmd := regAt_regOffset .cmd
  rw [hostWriteStep_eq, hostWrite, if_pos ha, he]
  rfl

/-- Settles O15, by the word: each of the five decodes to its command, and the rest are illegal. -/
theorem commandWordDispatch : Obligations.CommandWordDispatch := by
  unfold Obligations.CommandWordDispatch
  intro s w hb
  rcases cmd_word_cases w with rfl | rfl | rfl | rfl | rfl | hw
  · rw [hostWriteStep_of_decode (i := .nop) hb (by decide)]
    simp
  · rw [hostWriteStep_of_decode (i := .configure) hb (by decide)]
    by_cases hs : s.status.state = .running
    · simp [hs, exec_configure_of_running]
    · simp [hs]
  · rw [hostWriteStep_of_decode (i := .start) hb (by decide)]
    by_cases hs : s.status.state ∈ [RunState.ready, .done, .cancelled, .busError]
    · simp [hs]
    · rw [exec_start_rejected hs]
      simp [hs]
  · rw [hostWriteStep_of_decode (i := .cancel) hb (by decide)]
    simp
  · rw [hostWriteStep_of_decode (i := .clrerr) hb (by decide)]
    simp
  · rw [hostWriteStep_of_illegal hw, if_pos hw]

/-- Settles O16: `NOP` answers the state it is given, and its word decodes to it. -/
theorem nopHasNoEffect : Obligations.NopHasNoEffect := by
  unfold Obligations.NopHasNoEffect
  have hb (s : State) : ¬ runBeforeSetup 0 s := fun ⟨h02, _⟩ => absurd h02 (by decide)
  exact fun s => ⟨rfl, hostWriteStep_of_decode (i := .nop) (hb s) (by decide)⟩

/-- Settles O17, by the two branches of `CANCEL`. -/
theorem cancelSetsTheStopFlag : Obligations.CancelSetsTheStopFlag := by
  unfold Obligations.CancelSetsTheStopFlag
  exact ⟨fun _ hs => if_pos hs, fun _ hs => if_neg hs⟩

/-- Settles O18: `CLRERR` is `clearSticky` in every state. -/
theorem clrerrClearsTheStickyFlags : Obligations.ClrerrClearsTheStickyFlags := by
  unfold Obligations.ClrerrClearsTheStickyFlags
  exact fun _ => rfl

/-- Settles O19, by the two branches of `START`. -/
theorem startBeginsFromFrameZero : Obligations.StartBeginsFromFrameZero := by
  unfold Obligations.StartBeginsFromFrameZero
  refine ⟨fun s hs => ⟨startRun s, exec_start_permitted hs, rfl, rfl, ?_⟩, fun s hs => exec_start_rejected hs⟩
  exact ⟨rfl, rfl, rfl, rfl, rfl, rfl, rfl, fun _ => rfl⟩

/-! ### Mode resolution -/

/-- A permitted `CONFIGURE` of a configuration that fails a check (R112). -/
theorem exec_configure_failed {s : State} {code : CfgErr} {m : BitVec 3} (hs : s.status.state ≠ .running)
    (hr : resolve s.cfg = (code, m)) (hc : code ≠ .none) : exec .configure s = .next (configFailed code s) := by
  rw [exec_configure_of_not_running hs]
  rcases configured_cases s with ⟨m', hm, -⟩ | ⟨-, heq⟩
  · exact absurd (congrArg Prod.fst (hr.symm.trans hm)) hc
  · rw [heq, hr]

/-- A permitted `CONFIGURE` of a configuration that resolves (R112). -/
theorem exec_configure_ready {s : State} {m : BitVec 3} (hs : s.status.state ≠ .running)
    (hr : resolve s.cfg = (.none, m)) : exec .configure s = .next (configReady m s) := by
  rw [exec_configure_of_not_running hs]
  rcases configured_cases s with ⟨m', hm, heq⟩ | ⟨hne, -⟩
  · cases hm.symm.trans hr
    rw [heq]
  · exact absurd (congrArg Prod.fst hr) hne

/-- `Resolve()` by the lengths as numbers and the flags' bits, numbered as R30 does (R112 to R116). -/
theorem resolve_eq (c : CfgRegs) : resolve c =
    if channelsDistinct c.channels ≠ true then (.channelConflict, 0)
    else if c.flags.getLsbD 4 = true ∧ c.seqLen.toNat = 0 then (.emptySequence, 0)
    else if c.flags.getLsbD 4 = true ∧ 64 < c.seqLen.toNat then (.seqMalformed, 0)
    else if c.flags.getLsbD 7 = true ∧ 64 < c.intLen.toNat then (.intMalformed, 0)
    else resolveCascade c.flags := by
  have hlen : c.seqLen.toNat = 0 ↔ c.seqLen = 0 := by rw [← BitVec.toNat_inj]; rfl
  simp only [resolve, flagSeqPresent, flagIntPresent, hlen, Bool.not_eq_true', Bool.and_eq_true, decide_eq_true_eq,
    beq_iff_eq, ne_eq, Bool.not_eq_true]
  rfl

/-- The cascade by the flags' bits, with the modes' codes (R84, R117 to R119). -/
theorem resolveCascade_eq (f : BitVec 8) : resolveCascade f =
    if f.getLsbD 4 then
      if f.getLsbD 1 then if f.getLsbD 0 then (.none, 0) else (.none, 1)
      else if f.getLsbD 0 then (.none, 2) else (.none, 3)
    else if f.getLsbD 2 then if f.getLsbD 0 then (.none, 4) else (.none, 5)
    else if f.getLsbD 3 then if f.getLsbD 0 then (.chaosSoft, 0) else (.none, 6)
    else if f.getLsbD 5 then (.none, 7)
    else (.noMode, 0) := by
  unfold resolveCascade flagRandomSequence
  cases f.getLsbD 1 with
  | true => simp only [Bool.true_and, if_true]; rfl
  | false => simp only [Bool.false_and, Bool.false_eq_true, if_false]; rfl

section Checks

variable {c : CfgRegs} (hd : channelsDistinct c.channels = true)
include hd

theorem resolve_emptySequence (h4 : c.flags.getLsbD 4 = true) (hlen : c.seqLen.toNat = 0) :
    resolve c = (.emptySequence, 0) := by
  rw [resolve_eq, if_neg (not_not.mpr hd), if_pos ⟨h4, hlen⟩]

theorem resolve_seqMalformed (h4 : c.flags.getLsbD 4 = true) (hlen : 64 < c.seqLen.toNat) :
    resolve c = (.seqMalformed, 0) := by
  rw [resolve_eq, if_neg (not_not.mpr hd), if_neg (by omega), if_pos ⟨h4, hlen⟩]

variable (hseq : c.flags.getLsbD 4 = true → 1 ≤ c.seqLen.toNat ∧ c.seqLen.toNat ≤ 64)
include hseq

/-- The interval check follows where those of the sequence are passed, whatever the mode (R116). -/
theorem resolve_of_sequence_passed : resolve c =
    if c.flags.getLsbD 7 = true ∧ 64 < c.intLen.toNat then (.intMalformed, 0) else resolveCascade c.flags := by
  rw [resolve_eq, if_neg (not_not.mpr hd), if_neg (fun ⟨h4, _⟩ => by have := hseq h4; omega),
    if_neg (fun ⟨h4, _⟩ => by have := hseq h4; omega)]

/-- With every check passed the flags alone decide (R117). -/
theorem resolve_of_checks_passed (hint : c.flags.getLsbD 7 = true → c.intLen.toNat ≤ 64) :
    resolve c = resolveCascade c.flags := by
  rw [resolve_of_sequence_passed hd hseq, if_neg (fun ⟨h7, hlen⟩ => by have := hint h7; omega)]

end Checks

/-- Settles O20, check by check in their order; the last two failures are leaves of the cascade. -/
theorem configureReportsTheFirstFailure : Obligations.ConfigureReportsTheFirstFailure := by
  unfold Obligations.ConfigureReportsTheFirstFailure
  refine ⟨fun s hs => exec_configure_of_running hs, ?_⟩
  intro s hs r g b flag len lenI
  refine ⟨fun heq => ?_, fun hrg hrb hgb => ?_⟩
  · have hd : channelsDistinct s.cfg.channels ≠ true := by
      rw [ne_eq, channelsDistinct_iff]
      tauto
    exact exec_configure_failed hs (by rw [resolve_eq, if_pos hd]) (by simp)
  have hd := (channelsDistinct_iff s.cfg.channels).mpr ⟨hrg, hrb, hgb⟩
  refine ⟨fun h4 hlen => ?_, fun h4 hlen => ?_, fun hseq => ⟨fun h7 hlen => ?_, fun hint h4 h2 => ?_⟩⟩
  · exact exec_configure_failed hs (resolve_emptySequence hd h4 hlen) (by simp)
  · exact exec_configure_failed hs (resolve_seqMalformed hd h4 hlen) (by simp)
  · exact exec_configure_failed hs (by rw [resolve_of_sequence_passed hd hseq, if_pos ⟨h7, hlen⟩]) (by simp)
  · have hcascade := (resolve_of_checks_passed hd hseq hint).trans (resolveCascade_eq _)
    rw [if_neg h4, if_neg h2] at hcascade
    refine ⟨fun h3 h0 => ?_, fun h3 h5 => ?_⟩
    · exact exec_configure_failed hs (by rw [hcascade, if_pos h3, if_pos h0]) (by simp)
    · exact exec_configure_failed hs (by rw [hcascade, if_neg h3, if_neg h5]) (by simp)

/-- Settles O21, leaf by leaf of the cascade. -/
theorem configureResolvesByPriority : Obligations.ConfigureResolvesByPriority := by
  unfold Obligations.ConfigureResolvesByPriority
  intro s hs r g b flag hrg hrb hgb hint
  have hd := (channelsDistinct_iff s.cfg.channels).mpr ⟨hrg, hrb, hgb⟩
  refine ⟨fun h4 hlo hhi => ?_, fun h4 => ?_⟩
  · have hcascade := (resolve_of_checks_passed hd (fun _ => ⟨hlo, hhi⟩) hint).trans (resolveCascade_eq _)
    rw [if_pos h4] at hcascade
    refine ⟨fun h1 h0 => ?_, fun h1 h0 => ?_, fun h1 h0 => ?_, fun h1 h0 => ?_⟩
    · exact exec_configure_ready hs (by rw [hcascade, if_pos h1, if_pos h0])
    · exact exec_configure_ready hs (by rw [hcascade, if_pos h1, if_neg h0])
    · exact exec_configure_ready hs (by rw [hcascade, if_neg h1, if_pos h0])
    · exact exec_configure_ready hs (by rw [hcascade, if_neg h1, if_neg h0])
  · have hcascade := (resolve_of_checks_passed hd (fun h => absurd h h4) hint).trans (resolveCascade_eq _)
    rw [if_neg h4] at hcascade
    refine ⟨fun h2 h0 => ?_, fun h2 h0 => ?_, fun h2 h3 h0 => ?_, fun h2 h3 h5 => ?_⟩
    · exact exec_configure_ready hs (by rw [hcascade, if_pos h2, if_pos h0])
    · exact exec_configure_ready hs (by rw [hcascade, if_pos h2, if_neg h0])
    · exact exec_configure_ready hs (by rw [hcascade, if_neg h2, if_pos h3, if_neg h0])
    · exact exec_configure_ready hs (by rw [hcascade, if_neg h2, if_neg h3, if_pos h5])

/-- Settles O22: the outcome is a function of what `Resolve()` answers, which reads these four registers alone. -/
theorem resolutionIsPure : Obligations.ResolutionIsPure := by
  unfold Obligations.ResolutionIsPure
  intro s s' hs hs' hflags hchannels hseq hint
  have hres : resolve s'.cfg = resolve s.cfg := by simp only [resolve, hflags, hchannels, hseq, hint]
  rcases hr : resolve s.cfg with ⟨code, m⟩
  rw [hr] at hres
  by_cases hc : code = .none
  · subst hc
    exact ⟨_, _, exec_configure_ready hs hr, exec_configure_ready hs' hres, rfl, rfl, rfl, rfl⟩
  · exact ⟨_, _, exec_configure_failed hs hr hc, exec_configure_failed hs' hres hc, rfl, rfl, rfl, rfl⟩

end Sys2Proof.Proofs
end

section
/-! PROOFS. A run reads of the configuration what its mode reads in the table of R120, and nothing else: its steps carry
over to another state that agrees on that (R120, R142, R143; O54). -/

namespace Sys2Proof.Proofs

open Sys2Proof.Machine Sys2Proof.Safety Sys2Proof.Laws

/-! ### A run carried over -/

/-- What `s` shows of its run, with the configuration, the memories, the tape and the DRIVER of `x`. -/
def onConfigOf (x s : State) : State :=
  { x with status := s.status, eng := s.eng, port := s.port, curColor := s.curColor, trace := s.trace }

@[simp] theorem onConfigOf_keeps (x s : State) :
    (onConfigOf x s).cfg = x.cfg ∧ (onConfigOf x s).status = s.status ∧ (onConfigOf x s).eng = s.eng :=
  ⟨rfl, rfl, rfl⟩

theorem eq_onConfigOf {s s' : State} (hstatus : s.status = s'.status) (heng : s.eng = s'.eng) (hport : s.port = s'.port)
    (hcur : s.curColor = s'.curColor) (htrace : s.trace = s'.trace) : s' = onConfigOf s' s := by
  rw [onConfigOf, hstatus, heng, hport, hcur, htrace]

/-- Where the first answers a next state, the second answers one that shows the same of the run. -/
def CarriesOver (r r' : Result) : Prop := ∀ t, r = .next t → ∃ y, r' = .next (onConfigOf y t)

theorem carriesOver_next (t y : State) : CarriesOver (.next t) (.next (onConfigOf y t)) := by
  intro u hu
  cases hu
  exact ⟨y, rfl⟩

theorem carriesOver_fault (f : Fault) (r : Result) : CarriesOver (.fault f) r := by
  intro u hu
  cases hu

/-! ### The steps that read no configuration -/

theorem startWait_onConfigOf (w : Word) (x s : State) : startWait w (onConfigOf x s) = onConfigOf x (startWait w s) := by
  unfold startWait
  rw [apply_ite (onConfigOf x)]
  rfl

theorem closeFrame_onConfigOf (x s : State) : closeFrame (onConfigOf x s) = onConfigOf x (closeFrame s) := by
  unfold closeFrame
  rw [apply_ite (onConfigOf x)]
  rfl

theorem tickPulse_onConfigOf (x s : State) : tickPulse (onConfigOf x s) = onConfigOf x (tickPulse s) := by
  unfold tickPulse
  rw [apply_ite (onConfigOf x)]
  dsimp only
  rw [apply_ite (onConfigOf x)]
  rfl

/-- An answer changes behind the port the DRIVER alone (R177). -/
theorem respond_onConfigOf (f : Bool) (x s : State) : ∃ y,
    respond f (chipAnswered f (onConfigOf x s)) = onConfigOf y (respond f (chipAnswered f s)) := by
  refine ⟨chipAnswered f (onConfigOf x s), ?_⟩
  cases f <;> rfl

/-- An answer is given where the DRIVER is set up on both sides (R177). -/
theorem carriesOver_driverStep {x s : State} (f : Bool) (hd : s.eng.phase = .waitWr → x.drv.ready = true) :
    CarriesOver (driverStep f s) (driverStep f (onConfigOf x s)) := by
  intro t h
  cases driverStep_cases h with
  | ignored hn => exact ⟨x, if_neg hn⟩
  | answered hp hr _ =>
    obtain ⟨y, hy⟩ := respond_onConfigOf f x s
    exact ⟨y, (driverStep_answered (s := onConfigOf x s) hp hr (hd hp)).trans (congrArg Host.Outcome.next hy)⟩

/-! ### What the frame operations read -/

/-- The indices and the draws that a frame operation reads entries by are below their lengths. -/
structure ReadsInBounds (i : Instr) (s : State) : Prop where
  seqLen_le : isSequenceMode i = true → s.cfg.seqLen.toNat ≤ 64
  iSeq_lt : isInOrder i = true → s.eng.iSeq.toNat < s.cfg.seqLen.toNat
  iInt_lt : i = .mRandom → useInt s = true → s.eng.iInt.toNat < s.cfg.intLen.toNat
  draws : DrawsInBounds i s

theorem modeDraws_onConfigOf {i : Instr} {x s : State} (h : sameReads i s x) :
    modeDraws i (onConfigOf x s) = modeDraws i s := by
  cases i
  case mSeqSoftRandom =>
    obtain ⟨-, -, hlen, -⟩ := h
    simp only [modeDraws, drawsSeqSoftRandom, onConfigOf_keeps, hlen]
  case mSeqRandom =>
    obtain ⟨-, -, hlen, -⟩ := h
    simp only [modeDraws, drawsSeqRandom, onConfigOf_keeps, hlen]
  case mRandomSoft =>
    obtain ⟨-, -, hstart, -⟩ := h
    simp only [modeDraws, drawsRandomSoft, onConfigOf_keeps, hstart]
  all_goals rfl

/-- An element of the sequence is read where the two sequences agree. -/
theorem seqAt_onConfigOf {x s : State} {n : Nat} (hlen : s.cfg.seqLen.toNat ≤ 64)
    (h : ∀ n : BitVec 6, n.toNat < s.cfg.seqLen.toNat → seqEntry s n = seqEntry x n) (hn : n < s.cfg.seqLen.toNat) :
    seqAt (onConfigOf x s) n = seqAt s n := by
  have hn6 : (BitVec.ofNat 6 n).toNat < s.cfg.seqLen.toNat := by
    rw [BitVec.toNat_ofNat]
    exact (Nat.mod_le _ _).trans_lt hn
  rw [seqAt_of_lt (by omega), seqAt_of_lt (by omega), h _ hn6]
  rfl

theorem useInt_onConfigOf {x s : State} (h : sameReads .mRandom s x) : useInt (onConfigOf x s) = useInt s := by
  obtain ⟨-, -, hflag, hlen, -⟩ := h
  simp only [useInt, onConfigOf_keeps, hflag, hlen]

theorem mainDelay_onConfigOf {x s : State} (h : sameReads .mRandom s x)
    (hb : useInt s = true → s.eng.iInt.toNat < s.cfg.intLen.toNat) : mainDelay (onConfigOf x s) = mainDelay s := by
  have hu := useInt_onConfigOf h
  obtain ⟨-, hinterval, -, -, hentry⟩ := h
  rw [mainDelay, mainDelay, hu]
  split
  · rename_i hu
    exact (hentry _ (hb hu)).symm
  · exact hinterval.symm

theorem draw_onConfigOf (x s : State) (k : Fin 6) : draw (onConfigOf x s) k = draw s k := rfl

/-- The frame is the same where what the mode reads is (R137 to R144). -/
theorem modeFrame_onConfigOf {i : Instr} {x s : State} (h : sameReads i s x) (hb : ReadsInBounds i s) :
    modeFrame i (onConfigOf x s) = modeFrame i s := by
  cases i
  case mSeqSoftRandom =>
    obtain ⟨-, hinterval, -, hentry⟩ := h
    have hat {k : Fin 6} (hk : (drawTable .mSeqSoftRandom s)[k.val]? = some s.cfg.seqLen.toNat) :
        seqAt (onConfigOf x s) (draw s k).toNat = seqAt s (draw s k).toNat :=
      seqAt_onConfigOf (hb.seqLen_le rfl) hentry (hb.draws k _ hk)
    cases hf : s.eng.first with
    | true =>
      have hat0 := hat (k := 0) (by simp [drawTable, hf])
      have hat1 := hat (k := 1) (by simp [drawTable, hf])
      simp [modeFrame, frameSeqSoftRandom, draw_onConfigOf, hf, hat0, hat1, hinterval]
    | false =>
      have hat0 := hat (k := 0) (by simp [drawTable, hf])
      simp [modeFrame, frameSeqSoftRandom, draw_onConfigOf, hf, hat0, hinterval]
  case mSeqRandom =>
    obtain ⟨-, hinterval, -, hentry⟩ := h
    have hat : seqAt (onConfigOf x s) (draw s 0).toNat = seqAt s (draw s 0).toNat :=
      seqAt_onConfigOf (hb.seqLen_le rfl) hentry (hb.draws 0 _ rfl)
    simp [modeFrame, frameSeqRandom, draw_onConfigOf, hat, hinterval]
  case mSeqSoft =>
    obtain ⟨-, hinterval, hlen, hentry⟩ := h
    have hx := hb.iSeq_lt rfl
    have hn : s.cfg.seqLen.toNat ≠ 0 := by omega
    have hat := seqAt_onConfigOf (hb.seqLen_le rfl) hentry hx
    have hat' := seqAt_onConfigOf (hb.seqLen_le rfl) hentry
      (Nat.mod_lt (s.eng.iSeq.toNat + 1) (Nat.pos_of_ne_zero hn))
    simp [modeFrame, frameSeqSoft, hat, hinterval, ← hlen, nextIndex_of_ne_zero hn, Except.bind, bind, hat']
  case mSequence =>
    obtain ⟨-, hinterval, -, hentry⟩ := h
    have hat := seqAt_onConfigOf (hb.seqLen_le rfl) hentry (hb.iSeq_lt rfl)
    simp [modeFrame, frameSequence, hat, hinterval]
  case mRandomSoft =>
    obtain ⟨-, hinterval, hflag, hstart⟩ := h
    simp only [modeFrame, frameRandomSoft, onConfigOf_keeps, draw_onConfigOf, hinterval, hflag, hstart]
  case mRandom =>
    have hdelay := mainDelay_onConfigOf h (hb.iInt_lt rfl)
    simp only [modeFrame, frameRandom, hdelay]
    rfl
  case mRegular =>
    obtain ⟨-, hinterval, hrgb⟩ := h
    simp only [modeFrame, frameRegular, onConfigOf_keeps, hinterval, hrgb]
  all_goals rfl

/-- The index that an in-order mode commits is the same for the same length (R139, R140). -/
theorem commitSeqIndex_onConfigOf {x s : State} (hlen : s.cfg.seqLen = x.cfg.seqLen) :
    commitSeqIndex (onConfigOf x s) = (commitSeqIndex s).map (onConfigOf x) := by
  simp only [commitSeqIndex, onConfigOf_keeps, hlen]
  split <;> rfl

/-- The index that the Random mode commits is the same where its interval sequence is (R142). -/
theorem commitIntIndex_onConfigOf {x s : State} (h : sameReads .mRandom s x) :
    commitIntIndex (onConfigOf x s) = (commitIntIndex s).map (onConfigOf x) := by
  have hu := useInt_onConfigOf h
  obtain ⟨-, -, -, hlen, -⟩ := h
  simp only [commitIntIndex, onConfigOf_keeps, hu, hlen]
  split
  · split <;> rfl
  · rfl

/-- What a commit writes is the same where what the mode reads is (R135). -/
theorem modeCommit_onConfigOf {i : Instr} {x s : State} (h : sameReads i s x) :
    modeCommit i (onConfigOf x s) = (modeCommit i s).map (onConfigOf x) := by
  cases i
  case mSeqSoft | mSequence =>
    obtain ⟨-, -, hlen, -⟩ := h
    exact commitSeqIndex_onConfigOf hlen
  case mRandom => exact commitIntIndex_onConfigOf h
  all_goals rfl

/-! ### The ENGINE and RANDOM -/

/-- The build of a frame (R132). -/
theorem carriesOver_buildFrame {i : Instr} {x s : State} (h : sameReads i s x) (hb : ReadsInBounds i s) :
    CarriesOver (buildFrame (modeFrame i) s) (buildFrame (modeFrame i) (onConfigOf x s)) := by
  unfold buildFrame
  rw [modeFrame_onConfigOf h hb]
  cases modeFrame i s with
  | error f => exact carriesOver_fault f _
  | ok r => exact carriesOver_next (takeFrame r s) x

/-- The begin of a frame (R131). -/
theorem carriesOver_beginFrame {i : Instr} {x s : State} (h : sameReads i s x)
    (hb : modeDraws i s = [] → ReadsInBounds i (setDraws [] s)) :
    CarriesOver (beginFrame (modeDraws i) (modeFrame i) s)
      (beginFrame (modeDraws i) (modeFrame i) (onConfigOf x s)) := by
  unfold beginFrame
  simp only [modeDraws_onConfigOf h, onConfigOf_keeps]
  split
  · exact carriesOver_next (endRun .cancelled s) x
  · cases hd : modeDraws i s with
    | nil => exact carriesOver_buildFrame (s := setDraws [] s) h (hb hd)
    | cons n ns => exact carriesOver_next (requestDraws (setDraws (n :: ns) s)) x

/-- The end of a frame (R135). -/
theorem carriesOver_endFrame {i : Instr} {x s : State} (h : sameReads i s x) :
    CarriesOver (endFrame (modeCommit i) s) (endFrame (modeCommit i) (onConfigOf x s)) := by
  unfold endFrame
  rw [modeCommit_onConfigOf h]
  cases modeCommit i s with
  | error f => exact carriesOver_fault f _
  | ok u =>
    change CarriesOver _ (.next (closeFrame (onConfigOf x u)))
    rw [closeFrame_onConfigOf]
    exact carriesOver_next (closeFrame u) x

/-- A frame operation, at the three points of a frame where it acts (log 8). -/
theorem carriesOver_exec_mode {i : Instr} (hi : isMode i = true) {x s : State} (h : sameReads i s x)
    (hbegin : s.eng.phase = .begin → modeDraws i s = [] → ReadsInBounds i (setDraws [] s))
    (hdraw : s.eng.phase = .draw → ReadsInBounds i s) : CarriesOver (exec i s) (exec i (onConfigOf x s)) := by
  rw [exec_mode hi, exec_mode hi]
  simp only [frameOperation, onConfigOf_keeps]
  cases hp : s.eng.phase
  case begin => exact carriesOver_beginFrame h (hbegin hp)
  case draw =>
    dsimp only
    split
    · exact carriesOver_buildFrame h (hdraw hp)
    · exact carriesOver_next s x
  case finish => exact carriesOver_endFrame h
  all_goals exact carriesOver_next s x

/-- `Issue` reads `CHANNELS` alone (R133, R171). -/
theorem carriesOver_issueStep {x s : State} (h : s.cfg.channels = x.cfg.channels) :
    CarriesOver (issueStep s) (issueStep (onConfigOf x s)) := by
  cases ha : s.eng.act[s.eng.p]? with
  | none =>
    rw [issueStep_of_end ha, issueStep_of_end (s := onConfigOf x s) ha]
    exact carriesOver_next _ x
  | some a =>
    cases a with
    | wr l v =>
      rw [issueStep_of_write ha, issueStep_of_write (s := onConfigOf x s) ha]
      simp only [onConfigOf_keeps, ← h]
      exact carriesOver_next _ x
    | wt w =>
      rw [issueStep_of_wait ha, issueStep_of_wait (s := onConfigOf x s) ha, startWait_onConfigOf]
      exact carriesOver_next _ x

/-- In a run with the invariants every read is in bounds, once its draws are (R39, R40, R115). -/
theorem readsInBounds_of_inv {s u : State} (h : PabInv s) (hr : s.status.state = .running) (hcfg : u.cfg = s.cfg)
    (hseq : u.eng.iSeq = s.eng.iSeq) (hint : u.eng.iInt = s.eng.iInt)
    (hd : DrawsInBounds (decodeMode s.status.mode) u) : ReadsInBounds (decodeMode s.status.mode) u where
  seqLen_le hi := by rw [hcfg]; exact (seqLen_bounds_of_running h hr hi).2
  iSeq_lt := by rw [hcfg, hseq]; exact h.index.iSeq_lt hr
  iInt_lt := by rw [hcfg, hint, useInt_congr hcfg]; exact h.index.iInt_lt hr
  draws := hd

/-- A frame without draws reads none. -/
theorem drawsInBounds_of_no_draws {i : Instr} (hi : isMode i = true) {s : State} (h : modeDraws i s = []) :
    DrawsInBounds i (setDraws [] s) := by
  intro k n hn
  change (drawTable i s)[k.val]? = some n at hn
  rw [← modeDraws_eq_drawTable hi, h] at hn
  cases hn

theorem sameReads_channels {i : Instr} {s x : State} (h : sameReads i s x) : s.cfg.channels = x.cfg.channels := h.1

/-- The frame operations at a frame's begin and end, and `Issue` (R147). -/
theorem carriesOver_engineStep {x s : State} (hinv : PabInv s) (hr : s.status.state = .running)
    (h : sameReads (decodeMode s.status.mode) s x) : CarriesOver (engineStep s) (engineStep (onConfigOf x s)) := by
  have hm := isMode_decodeMode s.status.mode
  have frame (hp : s.eng.phase = .begin ∨ s.eng.phase = .finish) :
      CarriesOver (engineStep s) (engineStep (onConfigOf x s)) := by
    rw [engineStep_of_frame hr hp, engineStep_of_frame (s := onConfigOf x s) hr hp]
    refine carriesOver_exec_mode hm h (fun _ hd => ?_) (fun hd => ?_)
    · exact readsInBounds_of_inv hinv hr rfl rfl rfl (drawsInBounds_of_no_draws hm hd)
    · rcases hp with hp | hp <;> cases hd.symm.trans hp
  cases hp : s.eng.phase
  case begin => exact frame (.inl hp)
  case finish => exact frame (.inr hp)
  case issue =>
    rw [engineStep_of_issue hr hp, engineStep_of_issue (s := onConfigOf x s) hr hp]
    exact carriesOver_issueStep (sameReads_channels h)
  all_goals
    simp only [engineStep, onConfigOf_keeps, hr, hp, if_true]
    exact carriesOver_next s x

/-- A random answer reads no configuration, but for the frame that the last one builds (R132). -/
theorem carriesOver_randomStep {x s : State} (hinv : PabInv s) (h : sameReads (decodeMode s.status.mode) s x)
    (w : Word) : CarriesOver (randomStep w s) (randomStep w (onConfigOf x s)) := by
  by_cases hc : s.eng.phase = .draw ∧ s.port.rndReq = true
  swap
  · have hignored : randomStep w s = .next s := if_neg hc
    have hignored' : randomStep w (onConfigOf x s) = .next (onConfigOf x s) := if_neg hc
    rw [hignored, hignored']
    exact carriesOver_next s x
  obtain ⟨hp, hreq⟩ := hc
  have hr := running_of_phase hinv (by simp [hp])
  obtain ⟨hdl, hq⟩ := hinv.frame.draws_eq hp
  obtain ⟨n, hn⟩ : ∃ n, s.eng.dl[s.eng.q]? = some n := ⟨_, List.getElem?_eq_getElem hq⟩
  have h0 : n ≠ 0 := ne_zero_of_mem_drawTable (fun hi => (seqLen_bounds_of_running hinv hr hi).1)
    (hdl ▸ List.mem_of_getElem? hn)
  rw [randomStep_of_draw hp hreq hn h0, randomStep_of_draw (s := onConfigOf x s) hp hreq hn h0]
  simp only [onConfigOf_keeps]
  split
  · rename_i hlast
    have hd := drawsInBounds_fillDraw hdl hn hlast (drawn_toNat_lt w h0) (hinv.frame.drawn_lt hp)
    refine carriesOver_exec_mode (s := fillDraw _ s) (isMode_decodeMode _) h (fun hb => ?_) (fun _ => ?_)
    · cases hp.symm.trans hb
    · exact readsInBounds_of_inv hinv hr rfl rfl rfl hd
  · exact carriesOver_next (fillDraw _ s) x

/-- Settles O54: the second state is the first one on another configuration, and every step carries over to that. -/
theorem runReadsOnlyItsConfiguration : Obligations.RunReadsOnlyItsConfiguration := by
  unfold Obligations.RunReadsOnlyItsConfiguration
  intro s s' t e hinv hinv' hr he hstatus heng hport hcur htrace hreads ht
  have heq := eq_onConfigOf hstatus heng hport hcur htrace
  have hcarry : CarriesOver (stepEvent e s) (stepEvent e (onConfigOf s' s)) := by
    rcases he with rfl | rfl | ⟨f, rfl⟩ | ⟨w, rfl⟩
    · exact carriesOver_engineStep hinv hr hreads
    · change CarriesOver (.next (tickPulse s)) (.next (tickPulse (onConfigOf s' s)))
      rw [tickPulse_onConfigOf]
      exact carriesOver_next _ s'
    · exact carriesOver_driverStep f fun _ => hinv'.driverReady (hstatus ▸ hr)
    · exact carriesOver_randomStep hinv hreads w
  obtain ⟨y, hy⟩ := hcarry t ht
  rw [← heq] at hy
  exact ⟨_, hy, rfl, rfl, rfl, rfl, rfl⟩

end Sys2Proof.Proofs
end

section
/-! PROOFS. The frame operations mode by mode: the draws each requests, the frame it builds and what it commits (R131,
R132, R135, R137 to R145), and what none of them changes (O23 to O32). -/

namespace Sys2Proof.Proofs

open Sys2Proof.Machine Sys2Proof.Safety Sys2Proof.Laws

/-! ### What no frame operation changes -/

/-- What every frame operation leaves as it was: of the status only `STATE` and of the ports only the two requests may
differ, and `wr_req` never rises (R41, R46, R131 to R136). -/
structure LeavesRest (s t : State) : Prop extends KeepsConfig s t where
  curColor : t.curColor = s.curColor
  status : t.status = { s.status with state := t.status.state }
  wrb : t.eng.wrb = s.eng.wrb
  port : t.port = { s.port with wrReq := t.port.wrReq, rndReq := t.port.rndReq }
  wrReq : t.port.wrReq = true → s.port.wrReq = true
  trace : t.trace = s.trace
  tape : t.tape = s.tape
  drv : t.drv = s.drv

theorem leavesRest_endRun (st : RunState) (s : State) : LeavesRest s (endRun st s) :=
  ⟨⟨rfl, rfl, rfl, rfl⟩, rfl, rfl, rfl, rfl, nofun, rfl, rfl, rfl⟩

theorem leavesRest_closeFrame (s : State) : LeavesRest s (closeFrame s) := by
  unfold closeFrame
  split
  · exact { leavesRest_endRun .done { s with eng := { s.eng with first := false } } with }
  · exact ⟨⟨rfl, rfl, rfl, rfl⟩, rfl, rfl, rfl, rfl, id, rfl, rfl, rfl⟩

theorem exec_mode_leavesRest {i : Instr} (hi : isMode i = true) {s t : State} (h : exec i s = .next t) :
    LeavesRest s t := by
  cases exec_mode_cases hi h with
  | cancelled => exact leavesRest_endRun ..
  | closed _ s' hc =>
    obtain ⟨src, a, b, rfl⟩ := modeCommit_keeps hc
    exact { leavesRest_closeFrame _ with }
  | requested | builtAtOnce | built | nothing =>
    exact ⟨⟨rfl, rfl, rfl, rfl⟩, rfl, rfl, rfl, rfl, id, rfl, rfl, rfl⟩

/-- Settles O32, move by move of a frame operation. -/
theorem frameOperationsLeaveTheRest : Obligations.FrameOperationsLeaveTheRest := by
  unfold Obligations.FrameOperationsLeaveTheRest
  intro i s t hi h
  have k := exec_mode_leavesRest hi h
  exact ⟨k.cfg, readByte_congr k.mem k.resets, k.mem, k.curColor, k.convIn, k.status, k.wrb, k.port, k.wrReq,
    k.trace, k.tape, k.resets, k.drv⟩

/-- Settles O23: the stop check comes first in every mode. -/
theorem stopCheckEndsTheRun : Obligations.StopCheckEndsTheRun := by
  unfold Obligations.StopCheckEndsTheRun
  exact fun i s hi hp hs => exec_begin_stop hi hp hs

/-! ### Elements of the sequence that a frame reads -/

/-- A draw below the depth reads the element it names (R44). -/
theorem seqAt_draw {s : State} {k : Fin 6} (h : s.eng.dv[k].toNat < 64) :
    seqAt s (draw s k).toNat = .ok (seqEntry s (s.eng.dv[k].setWidth 6)) := by
  rw [draw, seqAt_of_lt h, BitVec.ofNat_toNat]

/-- An index register always reads the element it names: its 6 bits stay below the depth (R39, R44). -/
theorem seqAt_index (n : BitVec 6) (s : State) : seqAt s n.toNat = .ok (seqEntry s n) := by
  rw [seqAt_of_lt n.isLt, BitVec.ofNat_toNat, BitVec.setWidth_eq]

/-! ### The end of a frame, by what the mode commits -/

/-- The end of a frame whose commit writes these values (R135). -/
theorem exec_finish_frameEnded {i : Instr} {s : State} {src : Color} {a b : BitVec 6} (hi : isMode i = true)
    (hp : s.eng.phase = .finish)
    (hc : modeCommit i s = .ok { s with eng := { s.eng with src := src, iSeq := a, iInt := b } }) :
    exec i s = .next (frameEnded src a b s) := by
  rw [exec_finish hi hp hc, closeFrame_eq_frameEnded]

/-- The commit of the in-order modes where the sequence is not empty (R139, R140). -/
theorem commitSeqIndex_of_ne_zero {s : State} (h : s.cfg.seqLen.toNat ≠ 0) :
    commitSeqIndex s = .ok { s with eng := { s.eng with
      iSeq := BitVec.ofNat 6 ((s.eng.iSeq.toNat + 1) % s.cfg.seqLen.toNat) } } := by
  rw [commitSeqIndex, nextIndex_of_ne_zero h]

theorem commitIntIndex_of_useInt {s : State} (h : useInt s = true) :
    commitIntIndex s = .ok { s with eng := { s.eng with
      iInt := BitVec.ofNat 6 ((s.eng.iInt.toNat + 1) % s.cfg.intLen.toNat) } } := by
  have hn : s.cfg.intLen.toNat ≠ 0 := fun h0 => ((useInt_iff s).mp h).2 (BitVec.eq_of_toNat_eq h0)
  rw [commitIntIndex, if_pos h, nextIndex_of_ne_zero hn]

theorem commitIntIndex_of_not_useInt {s : State} (h : ¬ useInt s = true) : commitIntIndex s = .ok s := by
  rw [commitIntIndex, if_neg h]

/-! ### The sequence modes -/

/-- `FRAME_0` of a first frame (R137). -/
theorem frameSeqSoftRandom_first {s : State} (hf : s.eng.first = true) (h0 : s.eng.dv[0].toNat < 64)
    (h1 : s.eng.dv[1].toNat < 64) :
    frameSeqSoftRandom s =
      .ok ⟨goto (seqEntry s (s.eng.dv[0].setWidth 6)) (seqEntry s (s.eng.dv[1].setWidth 6)) s.cfg.interval,
        seqEntry s (s.eng.dv[0].setWidth 6), seqEntry s (s.eng.dv[1].setWidth 6)⟩ := by
  rw [frameSeqSoftRandom, if_pos hf, seqAt_draw (k := 0) h0, seqAt_draw (k := 1) h1]
  rfl

/-- `FRAME_0` of a later frame (R137). -/
theorem frameSeqSoftRandom_later {s : State} (hf : ¬ s.eng.first = true) (h0 : s.eng.dv[0].toNat < 64) :
    frameSeqSoftRandom s =
      .ok ⟨goto s.eng.src (seqEntry s (s.eng.dv[0].setWidth 6)) s.cfg.interval, s.eng.src,
        seqEntry s (s.eng.dv[0].setWidth 6)⟩ := by
  rw [frameSeqSoftRandom, if_neg hf, seqAt_draw (k := 0) h0]
  rfl

/-- Settles O24, by the three points of the frame; begin and build by whether it is the first. -/
theorem seqSoftRandomFrame : Obligations.SeqSoftRandomFrame := by
  unfold Obligations.SeqSoftRandomFrame
  refine ⟨fun s hp hs => ?_, fun s hp hq h0 h1 => ?_, fun s hp => exec_finish_frameEnded rfl hp rfl⟩
  · split
    · rename_i hf; exact exec_begin_draws rfl hp hs (if_pos hf)
    · rename_i hf; exact exec_begin_draws rfl hp hs (if_neg hf)
  · dsimp only
    split
    · rename_i hf; exact exec_build (i := .mSeqSoftRandom) rfl hp hq (frameSeqSoftRandom_first hf h0 (h1 hf))
    · rename_i hf; exact exec_build (i := .mSeqSoftRandom) rfl hp hq (frameSeqSoftRandom_later hf h0)

/-- `FRAME_1` (R138). -/
theorem frameSeqRandom_of_lt {s : State} (h0 : s.eng.dv[0].toNat < 64) :
    frameSeqRandom s =
      .ok ⟨setColor (seqEntry s (s.eng.dv[0].setWidth 6)) ++ [.wt s.cfg.interval], s.eng.src, s.eng.tgt⟩ := by
  rw [frameSeqRandom, seqAt_draw (k := 0) h0]
  rfl

/-- Settles O25, by the three points of the frame. -/
theorem seqRandomFrame : Obligations.SeqRandomFrame := by
  unfold Obligations.SeqRandomFrame
  exact ⟨fun s hp hs => exec_begin_draws rfl hp hs rfl,
    fun s hp hq h0 => exec_build (i := .mSeqRandom) rfl hp hq (frameSeqRandom_of_lt h0),
    fun s hp => exec_finish_frameEnded rfl hp rfl⟩

/-- `FRAME_2` where the sequence has 1 to 64 elements (R139). -/
theorem frameSeqSoft_of_bounds {s : State} (hlo : 1 ≤ s.cfg.seqLen.toNat) (hhi : s.cfg.seqLen.toNat ≤ 64) :
    frameSeqSoft s =
      let src := seqEntry s s.eng.iSeq
      let tgt := seqEntry s (BitVec.ofNat 6 ((s.eng.iSeq.toNat + 1) % s.cfg.seqLen.toNat))
      .ok ⟨goto src tgt s.cfg.interval, src, tgt⟩ := by
  have hj : (s.eng.iSeq.toNat + 1) % s.cfg.seqLen.toNat < 64 := (Nat.mod_lt _ hlo).trans_le hhi
  rw [frameSeqSoft, seqAt_index, nextIndex_of_ne_zero (by omega)]
  change (seqAt s _ >>= _) = _
  rw [seqAt_of_lt hj]
  rfl

/-- Settles O26: the next index is below the length, so its element exists. -/
theorem seqSoftFrame : Obligations.SeqSoftFrame := by
  unfold Obligations.SeqSoftFrame
  exact ⟨fun s hp hs hlo hhi => exec_begin_noDraws (i := .mSeqSoft) rfl hp hs rfl
      (frameSeqSoft_of_bounds (s := noDraws s) hlo hhi),
    fun s hp hlo _ => exec_finish_frameEnded rfl hp (commitSeqIndex_of_ne_zero (by omega))⟩

/-- `FRAME_3` (R140). -/
theorem frameSequence_eq (s : State) :
    frameSequence s = .ok ⟨setColor (seqEntry s s.eng.iSeq) ++ [.wt s.cfg.interval], s.eng.src, s.eng.tgt⟩ := by
  rw [frameSequence, seqAt_index]
  rfl

/-- Settles O27, by the two points at which the mode acts. -/
theorem sequenceFrame : Obligations.SequenceFrame := by
  unfold Obligations.SequenceFrame
  exact ⟨fun s hp hs => exec_begin_noDraws (i := .mSequence) rfl hp hs rfl (frameSequence_eq (noDraws s)),
    fun s hp hlo _ => exec_finish_frameEnded rfl hp (commitSeqIndex_of_ne_zero (by omega))⟩

/-! ### The random modes -/

/-- `DRAWS(4, FIRST)` in the terms of FLAGS (R30, R132). -/
theorem drawsRandomSoft_eq (s : State) :
    drawsRandomSoft s =
      if s.eng.first = true ∧ s.cfg.flags.getLsbD 6 = false then [256, 256, 256, 256, 256, 256]
      else [256, 256, 256] := by
  simp [drawsRandomSoft, flagStartPresent, colorDraws]

/-- The colour of draws `0` to `2`. -/
def firstDrawn (s : State) : Color := drawnColor s.eng.dv[0] s.eng.dv[1] s.eng.dv[2]

/-- The colour of draws `3` to `5`. -/
def secondDrawn (s : State) : Color := drawnColor s.eng.dv[3] s.eng.dv[4] s.eng.dv[5]

/-- `FRAME_4` by the source of the crossfade: `START_COLOR`, a drawn colour, or the last frame's target (R141). -/
theorem frameRandomSoft_eq (s : State) :
    frameRandomSoft s = .ok
      (if s.eng.first = true ∧ s.cfg.flags.getLsbD 6 = true then
        ⟨goto s.cfg.startColor (firstDrawn s) s.cfg.interval, s.cfg.startColor, firstDrawn s⟩
       else if s.eng.first = true then
        ⟨goto (firstDrawn s) (secondDrawn s) s.cfg.interval, firstDrawn s, secondDrawn s⟩
       else ⟨goto s.eng.src (firstDrawn s) s.cfg.interval, s.eng.src, firstDrawn s⟩) := by
  unfold frameRandomSoft flagStartPresent
  cases s.eng.first
  · rfl
  · cases s.cfg.flags.getLsbD 6 <;> rfl

/-- Settles O28, by the three points of the frame; the build by the source of the crossfade. -/
theorem randomSoftFrame : Obligations.RandomSoftFrame := by
  unfold Obligations.RandomSoftFrame
  refine ⟨fun s hp hs => ?_, fun s hp hq => ?_, fun s hp => exec_finish_frameEnded rfl hp rfl⟩
  · have hd := drawsRandomSoft_eq s
    split <;> rename_i h
    · exact exec_begin_draws rfl hp hs (hd.trans (if_pos h))
    · exact exec_begin_draws rfl hp hs (hd.trans (if_neg h))
  · rw [exec_build (i := .mRandomSoft) rfl hp hq (frameRandomSoft_eq s)]
    split
    · rfl
    · split <;> rfl

/-- The main delay in the terms of FLAGS and INT_LEN (R142). -/
theorem mainDelay_eq (s : State) :
    mainDelay s =
      if s.cfg.flags.getLsbD 7 = true ∧ s.cfg.intLen ≠ 0 then intEntry s s.eng.iInt else s.cfg.interval := by
  simp only [mainDelay, useInt_iff]

/-- Settles O29, by the three points of the frame; the end by whether the interval sequence is in use. -/
theorem randomFrame : Obligations.RandomFrame := by
  unfold Obligations.RandomFrame
  refine ⟨fun s hp hs => exec_begin_draws rfl hp hs rfl, fun s hp hq => ?_, fun s hp _ => ?_⟩
  · dsimp only
    rw [← mainDelay_eq]
    exact exec_build (i := .mRandom) rfl hp hq rfl
  · split
    · rename_i hu; exact exec_finish_frameEnded rfl hp (commitIntIndex_of_useInt ((useInt_iff s).mpr hu))
    · rename_i hu; exact exec_finish_frameEnded rfl hp (commitIntIndex_of_not_useInt (mt (useInt_iff s).mp hu))

/-- Settles O30, by the three points of the frame. -/
theorem chaosFrame : Obligations.ChaosFrame := by
  unfold Obligations.ChaosFrame
  exact ⟨fun s hp hs => exec_begin_draws rfl hp hs rfl,
    fun s hp hq => exec_build (i := .mChaos) rfl hp hq rfl,
    fun s hp => exec_finish_frameEnded rfl hp rfl⟩

/-- Settles O31, by the two points at which the mode acts. -/
theorem regularFrame : Obligations.RegularFrame := by
  unfold Obligations.RegularFrame
  exact ⟨fun s hp hs => exec_begin_noDraws (i := .mRegular) rfl hp hs rfl rfl,
    fun s hp => exec_finish_frameEnded rfl hp rfl⟩

end Sys2Proof.Proofs
end

section
/-! PROOFS. The steps between a frame's begin and its end: random answers, the ENGINE's `Issue`, the DRIVER's answers
and the ticks of a wait (R132 to R134, R172, R175, R202, R212; O33, O35, O36, O38). -/

namespace Sys2Proof.Proofs

open Sys2Proof.Machine Sys2Proof.Safety Sys2Proof.Laws

/-! ### Random answers -/

/-- Settles O33, by whether the answer is the last. -/
theorem randomAnswerFillsTheNextDraw : Obligations.RandomAnswerFillsTheNextDraw := by
  unfold Obligations.RandomAnswerFillsTheNextDraw
  refine ⟨fun s w n hp hr hn h0 hq => ?_, fun s w n hp hr hn h0 hq => ?_⟩
  · change randomStep w s = _
    rw [randomStep_of_draw hp hr hn h0, if_neg hq]
    simp [fillDraw, hq]
  · change randomStep w s = _
    rw [randomStep_of_draw hp hr hn h0, if_pos hq]
    simp [fillDraw, hq]

/-! ### `Issue` -/

/-- Settles O35, by what stands at the position (named apart from the model's `issueStep`). -/
theorem engineIssueStep : Obligations.IssueStep := by
  unfold Obligations.IssueStep
  refine ⟨fun s hr hp ha => ?_, fun s x v hr hp ha => ?_, fun s n hr hp ha h0 => ?_, fun s hr hp ha => ?_⟩
  · exact (engineStep_of_issue hr hp).trans (issueStep_of_end (by simp [ha]))
  · refine (engineStep_of_issue hr hp).trans ((issueStep_of_write ha).trans ?_)
    cases x <;> rfl
  · exact (engineStep_of_issue hr hp).trans ((issueStep_of_wait ha).trans (by rw [startWait_of_ne_zero h0]; rfl))
  · exact (engineStep_of_issue hr hp).trans (issueStep_of_wait ha)

/-! ### The DRIVER's answer -/

/-- Settles O36: behind the port the chip alone changes, and `respond` does the rest. -/
theorem driverAnswer : Obligations.DriverAnswer := by
  unfold Obligations.DriverAnswer
  intro s hp hr hd
  refine ⟨⟨_, driverStep_answered hp hr hd, ?_⟩, ⟨_, driverStep_answered hp hr hd, ?_⟩⟩
  · simp only [respond_ok_keeps, chipAnswered_keeps, true_and, and_true]
    cases s.eng.wrb.lane <;> rfl
  · simp only [respond_fail_keeps, chipAnswered_keeps, and_true]
    rfl

/-! ### The ticks of a wait -/

/-- After `m` ticks a wait with more than `m` left is as before but for `DLY` (R134). -/
theorem runSteps_ticks_left {m k : Nat} {rest : List Event} {s : State} (hp : s.eng.phase = .waitTick)
    (hd : s.eng.dly.toNat = m + k + 1) (ht : s.tape = List.replicate m .tick ++ rest) :
    runSteps m s = .next { s with tape := rest, eng := { s.eng with dly := BitVec.ofNat 32 (k + 1) } } := by
  induction m generalizing s with
  | zero =>
    have ht : s.tape = rest := ht
    have hk : BitVec.ofNat 32 (k + 1) = s.eng.dly := by
      rw [show k + 1 = s.eng.dly.toNat by omega, BitVec.ofNat_toNat, BitVec.setWidth_eq]
    rw [hk, ← ht]; rfl
  | succ m ih =>
    rw [runSteps_tick (rest := List.replicate m .tick ++ rest) ht]
    obtain ⟨d, hd', hs⟩ := tickPulse_more (s := { s with tape := List.replicate m .tick ++ rest }) (n := m + k) hp
      (by rw [hd]; omega)
    rw [hs]
    exact ih (s := { s with tape := _, eng := { s.eng with dly := d } }) hp hd' rfl

/-- Settles O38: short of the last tick only `DLY` goes down, and the last one completes the wait. -/
theorem waitLastsItsTicks : Obligations.WaitLastsItsTicks := by
  unfold Obligations.WaitLastsItsTicks
  intro s n rest hp hd h0 ht
  refine ⟨fun m hm => ?_, ?_⟩
  · obtain ⟨k, rfl⟩ : ∃ k, n = m + (k + 1) := ⟨n - m - 1, by omega⟩
    rw [List.replicate_add, List.append_assoc] at ht
    rw [Nat.add_sub_cancel_left]
    exact runSteps_ticks_left hp hd ht
  · obtain ⟨k, rfl⟩ := Nat.exists_eq_succ_of_ne_zero h0
    exact runSteps_ticks hp hd ht

end Sys2Proof.Proofs
end

section
/-! PROOFS. The action lists of spec 43: what stands at each position of a ramp, the lanes a crossfade writes, and its counts
(R160 to R163; O40 to O42). -/

namespace Sys2Proof.Proofs

open Sys2Proof.Machine Sys2Proof.Laws

/-! ### The two directions of a ramp -/

theorem ramp_of_lt {a b : Byte} (x : Lane) (t : Word) (h : a.toNat < b.toNat) :
    ramp x a b t = rampLoop x 1 t (b.toNat - a.toNat) a := by
  have hab : a ≠ b := by rintro rfl; omega
  rw [ramp, if_neg hab, if_pos h]

theorem ramp_of_gt {a b : Byte} (x : Lane) (t : Word) (h : b.toNat < a.toNat) :
    ramp x a b t = rampLoop x (-1) t (a.toNat - b.toNat) a := by
  have hab : a ≠ b := by rintro rfl; omega
  rw [ramp, if_neg hab, if_neg (by omega)]

theorem rampWrites_of_ne {a b : Byte} (h : a ≠ b) :
    rampWrites a b = max a.toNat b.toNat - min a.toNat b.toNat + 1 :=
  if_neg h

/-- In either direction a ramp between different ends is one loop over its values. -/
theorem ramp_eq_rampLoop {a b : Byte} (x : Lane) (t : Word) (h : a ≠ b) :
    ∃ d n, rampWrites a b = n + 1 ∧ ramp x a b t = rampLoop x d t n a := by
  obtain hlt | hgt := Nat.lt_or_gt_of_ne (mt BitVec.eq_of_toNat_eq h)
  · exact ⟨_, _, by rw [rampWrites_of_ne h]; omega, ramp_of_lt x t hlt⟩
  · exact ⟨_, _, by rw [rampWrites_of_ne h]; omega, ramp_of_gt x t hgt⟩

/-- R161: the `k`-th write of an upward ramp is `k` units above its start. -/
theorem ramp_getElem?_of_lt {a b : Byte} {k : Nat} (x : Lane) (t : Word) (h : a.toNat < b.toNat)
    (hk : k ≤ b.toNat - a.toNat) :
    (ramp x a b t)[2 * k]? = some (.wr x (BitVec.ofNat 8 (a.toNat + k))) ∧
      (ramp x a b t)[2 * k + 1]? = some (.wt t) := by
  have hv : a + BitVec.ofNat 8 k * 1 = BitVec.ofNat 8 (a.toNat + k) := by
    rw [BitVec.ofNat_add, BitVec.ofNat_toNat, BitVec.setWidth_eq, mul_one]
  rw [ramp_of_lt x t h, ← hv]
  exact rampLoop_getElem? x 1 t _ a k hk

/-- R161: the `k`-th write of a downward ramp is `k` units below its start. -/
theorem ramp_getElem?_of_gt {a b : Byte} {k : Nat} (x : Lane) (t : Word) (h : b.toNat < a.toNat)
    (hk : k ≤ a.toNat - b.toNat) :
    (ramp x a b t)[2 * k]? = some (.wr x (BitVec.ofNat 8 (a.toNat - k))) ∧
      (ramp x a b t)[2 * k + 1]? = some (.wt t) := by
  have hv : a + BitVec.ofNat 8 k * -1 = BitVec.ofNat 8 (a.toNat - k) := by
    rw [mul_neg_one, ← sub_eq_add_neg]
    bv_omega
  rw [ramp_of_gt x t h, ← hv]
  exact rampLoop_getElem? x (-1) t _ a k hk

/-- What a write of a ramp says of the ramp: its direction, and how far the write is from the start. -/
theorem toNat_of_ramp_getElem? {x : Lane} {a b v : Byte} {t : Word} {k : Nat}
    (h : (ramp x a b t)[2 * k]? = some (.wr x v)) :
    (a.toNat < b.toNat ∧ v.toNat = a.toNat + k) ∨ (b.toNat < a.toNat ∧ v.toNat + k = a.toNat) := by
  have hab : a ≠ b := by rintro rfl; simp at h
  obtain ⟨hlen, -⟩ := List.getElem?_eq_some_iff.mp h
  rw [length_ramp, rampWrites_of_ne hab] at hlen
  obtain hlt | hgt := Nat.lt_or_gt_of_ne (mt BitVec.eq_of_toNat_eq hab)
  · rw [(ramp_getElem?_of_lt x t hlt (by omega)).1] at h
    cases h
    exact .inl ⟨hlt, by rw [BitVec.toNat_ofNat]; omega⟩
  · rw [(ramp_getElem?_of_gt x t hgt (by omega)).1] at h
    cases h
    exact .inr ⟨hgt, by rw [BitVec.toNat_ofNat]; omega⟩

/-! ### The lanes a crossfade writes -/

/-- R161: a ramp writes its own lane, and only if its ends differ. -/
theorem of_wr_mem_ramp {x y : Lane} {a b v : Byte} {t : Word} (h : .wr y v ∈ ramp x a b t) : y = x ∧ a ≠ b := by
  have hab : a ≠ b := by rintro rfl; simp at h
  obtain ⟨d, n, -, hloop⟩ := ramp_eq_rampLoop x t hab
  rw [hloop] at h
  obtain hw | ⟨w, hw⟩ := mem_rampLoop h
  · cases hw
  · cases hw
    exact ⟨rfl, hab⟩

/-- R162: a crossfade writes a lane only if its value changes. -/
theorem of_wr_mem_goto {y : Lane} {v : Byte} {src tgt : Color} {t : Word} (h : .wr y v ∈ goto src tgt t) :
    (y = .r ∧ src.r ≠ tgt.r) ∨ (y = .g ∧ src.g ≠ tgt.g) ∨ (y = .b ∧ src.b ≠ tgt.b) := by
  rw [goto, List.mem_append, List.mem_append] at h
  obtain (h | h) | h := h
  · exact .inl (of_wr_mem_ramp h)
  · exact .inr (.inl (of_wr_mem_ramp h))
  · exact .inr (.inr (of_wr_mem_ramp h))

@[simp] theorem goto_self (c : Color) (t : Word) : goto c c t = [] := by
  simp only [goto, ramp_self, List.append_nil]

/-! ### The counts of a crossfade -/

theorem length_goto (src tgt : Color) (t : Word) : (goto src tgt t).length = 2 * gotoWrites src tgt := by
  simp only [goto, List.length_append, length_ramp, gotoWrites]
  omega

theorem gotoWrites_le (src tgt : Color) : gotoWrites src tgt ≤ 768 := by
  have h := length_goto_le src tgt 0
  rw [length_goto] at h
  omega

section
variable {f : Action → Nat} (hf : ∀ (y : Lane) (v : Byte), f (.wr y v) = 0)
include hf

/-- A measure that is 0 on writes counts the loop's interval once for each of its `n + 1` values. -/
theorem sum_map_rampLoop (x : Lane) (d : Byte) (t : Word) (n : Nat) (v : Byte) :
    ((rampLoop x d t n v).map f).sum = (n + 1) * f (.wt t) := by
  induction n generalizing v with
  | zero => simp [rampLoop, hf]
  | succ n ih =>
    simp only [rampLoop, List.map_cons, List.sum_cons, hf, ih]
    ring

/-- R163: in a ramp the interval is waited once for each write. -/
theorem sum_map_ramp (x : Lane) (a b : Byte) (t : Word) :
    ((ramp x a b t).map f).sum = rampWrites a b * f (.wt t) := by
  by_cases hab : a = b
  · subst hab; simp
  · obtain ⟨d, n, hn, hloop⟩ := ramp_eq_rampLoop x t hab
    rw [hloop, hn, sum_map_rampLoop hf]

/-- R163: in a crossfade, over its three ramps, the interval is waited once for each write. -/
theorem sum_map_goto (src tgt : Color) (t : Word) :
    ((goto src tgt t).map f).sum = gotoWrites src tgt * f (.wt t) := by
  simp only [goto, List.map_append, List.sum_append, sum_map_ramp hf, gotoWrites, Nat.add_mul]

end

/-- R102 (b) on components: one unit up is 16 or 17 counts of duty down. -/
theorem toNat_toDuty_step {v v' : Byte} (h : v'.toNat = v.toNat + 1) :
    (toDuty v').toNat + 16 = (toDuty v).toNat ∨ (toDuty v').toNat + 17 = (toDuty v).toNat := by
  have hv' : v'.toNat < 256 := v'.isLt
  unfold toDuty
  rw [toNat_toDutyInt_natCast (by omega), toNat_toDutyInt_natCast (by omega), h]
  exact dutyNat_succ_step (by omega)

/-! ### The obligations -/

/-- Settles O40: the ramp's length, and its loop's positions in each direction. -/
theorem rampStepsByOne : Obligations.RampStepsByOne := by
  unfold Obligations.RampStepsByOne
  refine fun x a b t => ⟨?_, fun hab => ⟨?_, fun k hk => ?_⟩⟩
  · rintro rfl
    exact ramp_self x a t
  · rw [length_ramp, rampWrites_of_ne hab]
  · obtain hlt | hgt := Nat.lt_or_gt_of_ne (mt BitVec.eq_of_toNat_eq hab)
    · rw [if_pos hlt]
      exact ramp_getElem?_of_lt x t hlt (by omega)
    · rw [if_neg (by omega)]
      exact ramp_getElem?_of_gt x t hgt (by omega)

/-- Settles O41: a lane that a crossfade writes is one whose value changes. -/
theorem setColorAndGoto : Obligations.SetColorAndGoto := by
  unfold Obligations.SetColorAndGoto
  refine ⟨fun c => rfl, fun s t i => ⟨rfl, goto_self s i, fun v hs h => ?_, fun v hs h => ?_, fun v hs h => ?_⟩⟩ <;>
    simpa [hs] using of_wr_mem_goto h

/-- Settles O42: the sums over the three lanes, and the distance of two neighbouring writes from the ramp's start. -/
theorem crossfadeCounts : Obligations.CrossfadeCounts := by
  unfold Obligations.CrossfadeCounts
  refine ⟨fun s t i => ⟨length_goto s t i, gotoWrites_le s t, sum_map_goto (fun _ _ => rfl) s t i⟩,
    fun x a b t k v v' h h' => ?_⟩
  have hv := toNat_of_ramp_getElem? h
  have hv' := toNat_of_ramp_getElem? (k := k + 1) h'
  obtain ⟨hlt, hv⟩ | ⟨hgt, hv⟩ := hv
  · have hstep : v'.toNat = v.toNat + 1 := by omega
    exact .inl ⟨hlt, hstep, toNat_toDuty_step hstep⟩
  · have hstep : v.toNat = v'.toNat + 1 := by omega
    exact .inr ⟨hgt, hstep.symm, toNat_toDuty_step hstep⟩

end Sys2Proof.Proofs
end

section
/-! PROOFS. The PWM driver interface in time: when `wr_req` rises and what its buses do while it stands, and the inputs
that come outside their phase (R170, R171, R173 to R175; O37, O47). -/

namespace Sys2Proof.Proofs

open Sys2Proof.Machine Sys2Proof.Safety Sys2Proof.Laws

/-! ### Inputs outside their phase -/

/-- Settles O37: the step of each of the three agents asks for its phase, and for its request, before anything else. -/
theorem inputsOutsideTheirPhaseAreIgnored : Obligations.InputsOutsideTheirPhaseAreIgnored := by
  unfold Obligations.InputsOutsideTheirPhaseAreIgnored
  have outside {s : State} {p : Phase} {req : Bool} (h : s.eng.phase ≠ p ∨ req = false) :
      ¬ (s.eng.phase = p ∧ req = true) := by
    rintro ⟨hp, rfl⟩
    exact h.elim (· hp) nofun
  exact ⟨fun _ _ h => if_neg (outside h), fun _ h => congrArg Host.Outcome.next (if_neg h),
    fun _ _ h => if_neg (outside h)⟩

/-! ### Steps that raise no request -/

/-- A request that stands after the step stood before it, on the same buses (R170). -/
def RaisesNoRequest (s t : State) : Prop :=
  t.port.wrReq = true →
    s.port.wrReq = true ∧ t.port.wrCh = s.port.wrCh ∧ t.port.wrOn = s.port.wrOn ∧ t.port.wrOff = s.port.wrOff

theorem raisesNoRequest_of_port_eq {s t : State} (h : t.port = s.port) : RaisesNoRequest s t := by
  intro hreq
  rw [h] at hreq ⊢
  exact ⟨hreq, rfl, rfl, rfl⟩

theorem raisesNoRequest_of_wrReq_false {s t : State} (h : t.port.wrReq = false) : RaisesNoRequest s t :=
  fun hreq => absurd (h.symm.trans hreq) nofun

/-- The frame operations drop requests but raise none, and have no hand in the buses. -/
theorem raisesNoRequest_of_leavesRest {s t : State} (k : LeavesRest s t) : RaisesNoRequest s t := by
  intro hreq
  refine ⟨k.wrReq hreq, ?_⟩
  rw [k.port]
  exact ⟨rfl, rfl, rfl⟩

theorem startWait_port (w : Word) (s : State) : (startWait w s).port = s.port := by
  unfold startWait
  split <;> rfl

theorem tickPulse_port (s : State) : (tickPulse s).port = s.port := by
  unfold tickPulse
  split
  · dsimp only
    split <;> rfl
  · rfl

/-- No command changes the ports in its step. -/
theorem cmdMove_port {w : Word} {s t : State} (m : CmdMove w s t) : t.port = s.port := by
  cases m with
  | configured => rcases configured_cases s with ⟨m, -, hc⟩ | ⟨-, hc⟩ <;> rw [hc] <;> rfl
  | noEffect | started | stopRequested | flagsCleared | rejected => rfl

/-- Of the ports a HOST step changes `h_rdata` alone (R60). -/
theorem hostMove_port {a : HostAccess} {s t : State} (m : HostMove a s t) :
    ∃ x : Word, t.port = { s.port with hRdata := x } := by
  have taken {rd : Bool} (h : t.port = (strobed rd s).port) : ∃ x : Word, t.port = { s.port with hRdata := x } := by
    obtain ⟨x, hx⟩ := strobed_eq rd s
    exact ⟨x, by rw [h, hx]; rfl⟩
  cases m with
  | command rd w _ _ m => exact taken (cmdMove_port m)
  | ignored => exact taken rfl
  | stored rd r v =>
    obtain ⟨-, hport, -⟩ := storeReg_keeps r v (strobed rd s)
    exact taken hport
  | convIn => exact taken rfl
  | answered _ x => exact ⟨x, rfl⟩

theorem raisesNoRequest_of_hostMove {a : HostAccess} {s t : State} (m : HostMove a s t) : RaisesNoRequest s t := by
  obtain ⟨x, hx⟩ := hostMove_port m
  intro hreq
  rw [hx] at hreq ⊢
  exact ⟨hreq, rfl, rfl, rfl⟩

theorem raisesNoRequest_of_driverMove {f : Bool} {s t : State} (m : DriverMove f s t) : RaisesNoRequest s t := by
  cases m with
  | ignored => exact raisesNoRequest_of_port_eq rfl
  | answered => exact raisesNoRequest_of_wrReq_false (by cases f <;> rfl)

/-- Of the ports a RANDOM answer changes `rnd_req` alone (R175). -/
theorem raisesNoRequest_of_randomMove {w : Word} {s t : State} (m : RandomMove w s t) : RaisesNoRequest s t := by
  cases m with
  | ignored => exact raisesNoRequest_of_port_eq rfl
  | drawn => exact fun hreq => ⟨hreq, rfl, rfl, rfl⟩
  | last hp _ n _ _ hq _ ht =>
    obtain ⟨r, -, rfl⟩ := exec_mode_of_drawn (isMode_decodeMode _) (s := fillDraw _ s) hp hq ht
    exact fun hreq => ⟨hreq, rfl, rfl, rfl⟩

/-! ### The step that raises one -/

/-- The step issues the write action at `p` (R133, R171). -/
def IssuesWrite (s t : State) : Prop :=
  s.status.state = .running ∧ s.eng.phase = .issue ∧ ∃ (x : Lane) (v : Byte), s.eng.act[s.eng.p]? = some (.wr x v) ∧
    t = issueWrite (channelOf x s.cfg.channels) (toDuty v) (latchWrite x v s)

theorem engineMove_request {s t : State} (m : EngineMove s t) : RaisesNoRequest s t ∨ IssuesWrite s t := by
  cases m with
  | mode _ _ _ h => exact .inl (raisesNoRequest_of_leavesRest (exec_mode_leavesRest (isMode_decodeMode _) h))
  | write hr hp x v ha => exact .inr ⟨hr, hp, x, v, ha, rfl⟩
  | wait _ _ w => exact .inl (raisesNoRequest_of_port_eq (startWait_port w s))
  | listEnd | nothing => exact .inl (raisesNoRequest_of_port_eq rfl)

/-- Every step but the issue of a write action raises no request and holds the buses of one that stands (R170). -/
theorem step_request {s t : State} (h : step s = .next t) :
    RaisesNoRequest (popped s) t ∨ IssuesWrite (popped s) t := by
  cases step_cases h with
  | engine _ _ m => exact engineMove_request m
  | reset => exact .inl (raisesNoRequest_of_wrReq_false rfl)
  | host _ _ _ _ m => exact .inl (raisesNoRequest_of_hostMove (hostStep_moves m))
  | driver _ _ _ _ m => exact .inl (raisesNoRequest_of_driverMove m)
  | tick => exact .inl (raisesNoRequest_of_port_eq (tickPulse_port _))
  | random _ _ _ _ m => exact .inl (raisesNoRequest_of_randomMove m)
  | env => exact .inl (raisesNoRequest_of_port_eq rfl)

/-- Settles O47: a write action is issued in ISSUE, where by the invariants no request stands. -/
theorem requestsComeFromWriteActions : Obligations.RequestsComeFromWriteActions := by
  unfold Obligations.RequestsComeFromWriteActions
  refine ⟨fun s t h hlow hreq => ?_, fun s t hinv h hreq hreq' => ?_⟩
  · rcases step_request h with hkeep | ⟨hr, hp, x, v, ha, rfl⟩
    · exact absurd (hlow.symm.trans (hkeep hreq).1) nofun
    · exact ⟨hr, hp, rfl, x, v, ha, rfl, rfl, rfl⟩
  · rcases step_request h with hkeep | ⟨-, hp, -⟩
    · exact (hkeep hreq').2
    · have hwait : s.eng.phase = .waitWr := hinv.phase.wrReq_iff.mp hreq
      exact absurd (hwait.symm.trans hp) nofun

end Sys2Proof.Proofs
end

section
/-! PROOFS. The chip after `setup()`: what `writeAll` leaves in the channel registers, and what the rest of the sequence
adds (R178, R181, R184, R245; O56). -/

namespace Sys2Proof.Proofs

open Sys2Proof.Machine Sys2Proof.Safety Sys2Proof.Laws

/-! ### `writeAll` -/

theorem mem_allChannels (ch : BitVec 4) : ch ∈ allChannels := by
  revert ch
  decide

/-- A write of the "all channels" block sets that register of every channel and no other register (R181). -/
theorem ledByte_applyBusOp_allLed (d : Driver) (ch : BitVec 4) (k k' : BitVec 2) (v : Byte) :
    ledByte (applyBusOp d (.write (.allLed k) v)) ch k' = if k' = k then v else ledByte d ch k' := by
  simp only [ledByte, applyBusOp_allLed, cellLookup_foldl_ledKey, mem_allChannels, and_true]
  split <;> rfl

/-- `writeAll(on, off)` leaves the pair in the four registers of every channel (R181). -/
theorem ledByte_writeAllOps (d : Driver) (ch : BitVec 4) (on off : BitVec 12) (k : BitVec 2) :
    ledByte (runBusOps (writeAllOps on off) d) ch k = countByte on off k := by
  have hk : k = 0 ∨ k = 1 ∨ k = 2 ∨ k = 3 := by revert k; decide
  simp only [writeAllOps, groupOrder, List.map_cons, List.map_nil, runBusOps_cons, runBusOps_nil,
    ledByte_applyBusOp_allLed]
  rcases hk with rfl | rfl | rfl | rfl <;> rfl

/-- `writeAll` changes the channel registers alone. -/
theorem runBusOps_writeAllOps (d : Driver) (on off : BitVec 12) :
    ∃ l, runBusOps (writeAllOps on off) d = { d with leds := l } := by
  simp only [writeAllOps, groupOrder, List.map_cons, List.map_nil, runBusOps_cons, runBusOps_nil, applyBusOp_allLed]
  exact ⟨_, rfl⟩

/-! ### `setup()` -/

/-- The registers of the pair (0, 0) are 0. -/
theorem countByte_zero (k : BitVec 2) : countByte 0 0 k = 0 := by
  revert k
  decide

theorem runBusOps_append (ops ops' : List BusOp) (d : Driver) :
    runBusOps (ops ++ ops') d = runBusOps ops' (runBusOps ops d) :=
  List.foldl_append

/-- After its `writeAll`, `setup()` changes the two mode registers alone (R178). -/
theorem runBusOps_setupOps (m1 m2 : Byte) (d : Driver) :
    runBusOps (setupOps m1 m2) d =
      { runBusOps (writeAllOps 0 0) d with
        mode2 := m2 ||| Config.mode2OutDrv, mode1 := (m1 ||| Config.mode1AllCall) &&& ~~~Config.mode1Sleep } := by
  simp only [setupOps, runBusOps_append, runBusOps_cons, runBusOps_nil, applyBusOp_mode2, applyBusOp_mode1,
    applyBusOp_settle]

/-- What the DRIVER holds after `setup()` outside a run: the chip as its bus operations leave it, and the three records
beside it (R177, R178). -/
def preparedDriver (d : Driver) : Driver :=
  { runBusOps (setupOps d.mode1 d.mode2) d with
    ready := true, frequency := Config.defaultFrequency, pairs := Vector.replicate 16 (0, 0) }

theorem setupStep_of_not_running {s : State} (h : s.status.state ≠ .running) :
    setupStep s = .next { s with drv := preparedDriver s.drv } :=
  if_neg h

/-- Everything that `setup()` leaves in the DRIVER (R177, R178). -/
theorem preparedDriver_spec (d : Driver) :
    (∃ l, preparedDriver d =
      { d with
        leds := l, mode2 := d.mode2 ||| Config.mode2OutDrv
        mode1 := (d.mode1 ||| Config.mode1AllCall) &&& ~~~Config.mode1Sleep
        ready := true, frequency := Config.defaultFrequency, pairs := Vector.replicate 16 (0, 0) }) ∧
    ∀ ch k, ledByte (preparedDriver d) ch k = 0 := by
  obtain ⟨l, hl⟩ := runBusOps_writeAllOps d 0 0
  have hled (ch : BitVec 4) (k : BitVec 2) : ledByte (runBusOps (writeAllOps 0 0) d) ch k = 0 :=
    (ledByte_writeAllOps d ch 0 0 k).trans (countByte_zero k)
  rw [hl] at hled
  rw [preparedDriver, runBusOps_setupOps, hl]
  exact ⟨⟨l, rfl⟩, hled⟩

/-- Settles O56: the step answers outside a run alone, and then with the prepared DRIVER. -/
theorem setupPreparesTheChip : Obligations.SetupPreparesTheChip := by
  unfold Obligations.SetupPreparesTheChip
  refine ⟨fun s hr => if_pos hr, fun s hr => ⟨_, setupStep_of_not_running hr, rfl, ?_⟩⟩
  obtain ⟨⟨l, hdrv⟩, hled⟩ := preparedDriver_spec s.drv
  rw [hdrv] at hled ⊢
  exact ⟨rfl, hled, rfl, rfl, rfl, rfl, fun ch => Vector.getElem_replicate _⟩

end Sys2Proof.Proofs
end

section
/-! PROOFS. One clock edge (R206; O39): the steps its inputs stand for, and a HOST access at the edge of a failing answer. -/

namespace Sys2Proof.Proofs

open Sys2Proof.Machine Sys2Proof.Safety Sys2Proof.Laws

/-- The ENGINE has no step outside a run (R5). -/
theorem engineStep_of_not_running {s : State} (h : s.status.state ≠ .running) : engineStep s = .next s := if_neg h

/-- An access at the edge of a failing answer takes effect first, then the answer ends the run; the ENGINE's own step finds
no run to go on with, whether it falls in the edge or not (R206, R202). -/
theorem runSteps_access_then_failure {a : HostAccess} {s u : State} (b : Bool)
    (hhost : ∀ l, hostStep a { s with tape := l } = .next { u with tape := l })
    (hp : u.eng.phase = .waitWr) (hr : u.port.wrReq = true) (hd : u.drv.ready = true) :
    runSteps (if b then 3 else 2) (offerEdge ⟨false, some a, some true, false, none, b⟩ s) =
      .next (respond true (chipAnswered true { u with tape := s.tape })) := by
  have hboth (n : Nat) (l : List Event) :
      runSteps (n + 2) { s with tape := .host a :: .driver true :: l } =
        runSteps n (respond true (chipAnswered true { u with tape := l })) :=
    calc runSteps (n + 2) { s with tape := .host a :: .driver true :: l }
      _ = runSteps (n + 1) { u with tape := .driver true :: l } := runSteps_of_tape_cons rfl (hhost _)
      _ = runSteps n (respond true (chipAnswered true { u with tape := l })) :=
        runSteps_of_tape_cons rfl (driverStep_answered (s := { u with tape := l }) hp hr hd)
  cases b with
  | false => exact hboth 0 s.tape
  | true => exact (hboth 1 (.engine :: s.tape)).trans (runSteps_of_tape_cons rfl (engineStep_of_not_running nofun))

/-- Settles O39: an absent input is the empty list of steps; a `CANCEL` sets the stop flag that the failing answer clears,
and a configuration write comes while the run goes on. -/
theorem oneClockEdge : Obligations.OneClockEdge := by
  unfold Obligations.OneClockEdge
  refine ⟨fun s e h => ?_, fun s e h => ?_, fun s b hs hp hr hd => ?_, fun s b r v hs hp hr hd hcfg => ?_⟩
  · rw [offerEdge, Edge.events, if_pos h]; rfl
  · rw [offerEdge, Edge.events, if_neg (by simp [h])]
    obtain ⟨-, _ | a, _ | f, tick, _ | w, engine⟩ := e <;> rfl
  · have hcancel (l : List Event) :
        hostStep ⟨true, false, 0x000, 3, .word⟩ { s with tape := l } = .next { requestStop s with tape := l } :=
      if_pos hs
    exact ⟨_, runSteps_access_then_failure b hcancel hp hr hd, rfl, rfl, rfl, rfl⟩
  · have hignored (l : List Event) :
        hostStep ⟨true, false, regOffset r, v, .word⟩ { s with tape := l } =
          .next { raiseError .ignoredWrite s with tape := l } :=
      (hostWriteStep_cfg hcfg).trans (congrArg Host.Outcome.next (if_pos hs))
    exact ⟨_, runSteps_access_then_failure b hignored hp hr hd, rfl, rfl, rfl, rfl⟩

end Sys2Proof.Proofs
end

section
/-! PROOFS. What changes the chip (R217, R230, R245; O60): with no request outstanding the DRIVER's own calls alone, and
of a request that fails or is abandoned its own channel alone. -/

namespace Sys2Proof.Proofs

open Sys2Proof.Machine Sys2Proof.Safety Sys2Proof.Laws

/-! ### The steps of the other agents -/

theorem startWait_drv (w : Word) (s : State) : (startWait w s).drv = s.drv := by
  unfold startWait
  split <;> rfl

theorem tickPulse_drv (s : State) : (tickPulse s).drv = s.drv := by
  unfold tickPulse
  split
  · dsimp only
    split <;> rfl
  · rfl

theorem engineMove_drv {s t : State} (m : EngineMove s t) : t.drv = s.drv := by
  cases m with
  | mode _ _ _ h => exact (exec_mode_leavesRest (isMode_decodeMode _) h).drv
  | wait _ _ w => exact startWait_drv w s
  | listEnd | write | nothing => rfl

theorem randomMove_drv {w : Word} {s t : State} (m : RandomMove w s t) : t.drv = s.drv := by
  cases m with
  | last _ _ _ _ _ _ _ ht => exact (exec_mode_leavesRest (isMode_decodeMode _) ht).drv
  | ignored | drawn => rfl

theorem cmdMove_drv {w : Word} {s t : State} (m : CmdMove w s t) : t.drv = s.drv := by
  cases m with
  | configured => rcases configured_cases s with ⟨m, -, hc⟩ | ⟨-, hc⟩ <;> rw [hc] <;> rfl
  | noEffect | started | stopRequested | flagsCleared | rejected => rfl

theorem hostMove_drv {a : HostAccess} {s t : State} (m : HostMove a s t) : t.drv = s.drv := by
  have strobed_drv (rd : Bool) : (strobed rd s).drv = s.drv := by simp
  cases m with
  | command rd w _ _ m => exact (cmdMove_drv m).trans (strobed_drv rd)
  | stored rd r v _ hr =>
    obtain ⟨-, -, -, -, -, hdrv⟩ := storeReg_cfg_keeps hr v (strobed rd s)
    exact hdrv.trans (strobed_drv rd)
  | ignored rd | convIn rd => exact strobed_drv rd
  | answered => rfl

/-! ### A reset -/

theorem resetStep_drv_of_no_request {s : State} (h : s.port.wrReq = false) : (resetStep s).drv = s.drv :=
  if_neg (by simp [h])

theorem resetStep_drv_of_request {s : State} (h : s.port.wrReq = true) :
    (resetStep s).drv =
      abandonWrite (Config.abandonedWrites s.drv.losses) s.port.wrCh s.port.wrOn s.port.wrOff s.drv :=
  if_pos h

/-! ### No request outstanding -/

/-- With no request outstanding, every step but `setup()` and `setFrequency` leaves the DRIVER and its chip as they were. -/
theorem step_drv_of_no_request {s t : State} (h : step s = .next t) (hreq : s.port.wrReq = false)
    (hsetup : nextEvent s ≠ .driverSetup) (hfreq : ∀ hz : Nat, nextEvent s ≠ .driverSetFrequency hz) :
    t.drv = s.drv := by
  change t.drv = (popped s).drv
  cases step_cases h with
  | engine _ _ m => exact engineMove_drv m
  | reset => exact resetStep_drv_of_no_request (s := popped s) hreq
  | host _ _ _ _ m => exact hostMove_drv (hostStep_moves m)
  | driver _ _ _ _ m =>
    cases m with
    | ignored => rfl
    | answered _ hr => exact absurd (hreq.symm.trans hr) nofun
  | tick => exact tickPulse_drv (popped s)
  | random _ _ _ _ m => exact randomMove_drv m
  | env _ _ ht =>
    rcases ht with ⟨r, ht⟩ | ⟨hz, r, ht⟩
    · exact absurd (nextEvent_of_tape_cons ht) hsetup
    · exact absurd (nextEvent_of_tape_cons ht) (hfreq hz)

/-! ### A request that fails or is abandoned -/

/-- The pair recorded for one channel is no other channel's. -/
theorem getElem_set_pair_of_ne {ch : BitVec 4} {ch' : Fin 16} (h : ch'.val ≠ ch.toNat)
    (pairs : Vector (BitVec 12 × BitVec 12) 16) (p : BitVec 12 × BitVec 12) :
    (pairs.set ch.toNat p ch.isLt)[ch'] = pairs[ch'] :=
  Vector.getElem_set_ne ch.isLt ch'.isLt (Ne.symm h)

/-- A request abandoned before its first register write leaves the last-programmed pairs as they were. -/
theorem set_pairAfter_zero (ch : BitVec 4) (on off : BitVec 12) (d : Driver) :
    d.pairs.set ch.toNat (pairAfter 0 ch on off d) ch.isLt = d.pairs :=
  Vector.set_getElem_self ch.isLt

/-- Settles O60: outside a run no request is outstanding; a failed and an abandoned request reach what
`forgetChannel_spec` and `abandonWrite_spec` list. -/
theorem theChipChangesOnlyByItsAgents : Obligations.TheChipChangesOnlyByItsAgents := by
  unfold Obligations.TheChipChangesOnlyByItsAgents
  refine ⟨fun s t hinv h hs => step_drv_of_no_request h (atRest_of_inv hinv hs).wrReq, fun s hp hr hd => ?_,
    fun s hr => ⟨_, rfl, resetStep_drv_of_no_request hr⟩, fun s hr => ?_⟩
  · obtain ⟨⟨l, hdrv⟩, hled⟩ := forgetChannel_spec s.port.wrCh s.drv
    have heq : (respond true (chipAnswered true s)).drv = forgetChannel s.port.wrCh s.drv := rfl
    refine ⟨_, driverStep_answered hp hr hd, ?_⟩
    rw [heq]
    refine ⟨fun ch k hne => by rw [hled, if_neg hne], ?_⟩
    rw [hdrv]
    exact ⟨fun ch hne => getElem_set_pair_of_ne hne .., rfl, rfl, rfl, rfl, rfl⟩
  · have heq := resetStep_drv_of_request hr
    generalize Config.abandonedWrites s.drv.losses = n at heq
    obtain ⟨⟨l, hdrv⟩, hled⟩ := abandonWrite_spec n s.port.wrCh s.port.wrOn s.port.wrOff s.drv
    refine ⟨_, n.val, rfl, Nat.le_of_lt_succ n.isLt, ?_⟩
    rw [heq]
    refine ⟨fun k => by simp [hled], fun ch k hne => by simp [hled, hne], ?_⟩
    rw [hdrv]
    refine ⟨fun ch hne => getElem_set_pair_of_ne hne .., fun hn => ?_, fun hn => ?_, rfl, rfl, rfl, rfl, rfl⟩
    · obtain rfl : n = 0 := Fin.ext hn
      exact set_pairAfter_zero ..
    · obtain rfl : n = 4 := Fin.ext hn
      rfl

end Sys2Proof.Proofs
end

section
/-! PROOFS. Reset (R20, R230 to R232; O48, O49): what a reset step leaves from any state, and what the HOST finds at
reset. -/

namespace Sys2Proof.Proofs

open Sys2Proof.Machine Sys2Proof.Safety Sys2Proof.Laws

/-! ### A reset step -/

/-- No byte is written since the reset: each reads the new free contents (R44, R234; log 3). -/
theorem readByte_resetStep (s : State) (b : Nat) : readByte (resetStep s) b = Config.ramByte (s.resets + 1) b := rfl

/-- Whatever becomes of an outstanding request, a reset leaves whether the DRIVER is set up (log 13). -/
theorem resetStep_drv_ready (s : State) : (resetStep s).drv.ready = s.drv.ready := by
  cases h : s.port.wrReq with
  | false => rw [resetStep_drv_of_no_request h]
  | true => rw [resetStep_drv_of_request h, abandonWrite_ready]

/-- After a reset no request stands, so an answer that comes late changes nothing (R170). -/
theorem driverStep_resetStep (f : Bool) (s : State) : driverStep f (resetStep s) = .next (resetStep s) :=
  inputsOutsideTheirPhaseAreIgnored.1 (resetStep s) f (.inr rfl)

/-- Settles O48: a reset step answers in every state, with the reset values in PAB's part of it. -/
theorem resetStepFromAnyState : Obligations.ResetStepFromAnyState := by
  unfold Obligations.ResetStepFromAnyState
  intro s rest ht
  have hstep : step s = .next (resetStep { s with tape := rest }) := step_of_tape_cons ht
  exact ⟨_, hstep, rfl, rfl, rfl, rfl, rfl, rfl, rfl, rfl, rfl, rfl, rfl, readByte_resetStep _, rfl,
    resetStep_drv_ready _, resetStep_drv_of_no_request, fun f => driverStep_resetStep f _⟩

/-! ### At reset -/

/-- A `START` at reset is rejected (R121, R232). -/
theorem hostWriteStep_start_reset : hostWriteStep 0x000 2 State.reset = .next (withCmdErr State.reset) := by
  have hstate : State.reset.status.state ∉ [RunState.ready, .done, .cancelled, .busError] := by decide
  have hsetup : ¬ runBeforeSetup 2 State.reset := fun h => hstate h.2.1
  rw [hostWriteStep_of_decode (i := .start) hsetup (by decide), exec_start_rejected hstate]

/-- Settles O49: a read at a register's offset answers the register, whose value at reset computes. -/
theorem resetValues : Obligations.ResetValues := by
  unfold Obligations.ResetValues
  have reads {w : Word} (r : Reg) (h : readReg r State.reset = w) : memRead (regOffset r) State.reset = w :=
    (memRead_regOffset r State.reset).trans h
  exact ⟨reads .status rfl, reads .flags rfl, reads .channels rfl, reads .rgb rfl, reads .startColor rfl,
    reads .interval rfl, reads .frameCount rfl, reads .seqLen rfl, reads .intLen rfl, reads .frameRemain rfl,
    reads .seqIndex rfl, reads .intIndex rfl, reads .curColor rfl, reads .convIn rfl, reads .convR rfl, reads .convG rfl,
    reads .convB rfl, reads .caps rfl, rfl, rfl, rfl, rfl, rfl, rfl, rfl, rfl, rfl, rfl, rfl, rfl, rfl, rfl, rfl, rfl,
    rfl, hostWriteStep_start_reset⟩

end Sys2Proof.Proofs
end
